-- ==== Sys2Proof/Word.lean ====
section
/-! DEFINITION. The two bit-vector types of the machine (R6, R8): bytes are 8 bits, addresses and the program
counter are 16 bits. Every value is unsigned; `+` on them is R8's `wrap8` and `wrap16` addition. -/

namespace Sys2Proof

/-- An 8-bit value: register contents, memory bytes, opcodes (R6). -/
abbrev Byte := BitVec 8

/-- A 16-bit value: addresses and the program counter (R6). -/
abbrev Word := BitVec 16

end Sys2Proof
end

