-- ==== Sys2Proof/Machine/Bits.lean ====
section
/-! DEFINITION. The bit-field and byte-order helpers of R8's notation. -/

namespace Sys2Proof

/-- `{h, l}`: the 16-bit value `h*256 + l` (R8). -/
def concat (h l : Byte) : Word := h ++ l

/-- `hi(a) = a[15:8]` (R8). -/
def hiByte (a : Word) : Byte := a.extractLsb' 8 8

/-- `lo(a) = a[7:0]` (R8). -/
def loByte (a : Word) : Byte := a.extractLsb' 0 8

/-- `zext_16(b)` (R8). -/
def zext16 (b : Byte) : Word := b.zeroExtend 16

end Sys2Proof
end

