-- ==== Sys2Proof/Machine/Params.lean ====
section
/-! DEFINITION. The numeric literals of the machine (R6), "normative exactly as the document states" them (R7, D18),
each under one name so that one place changes if one is wrong (log 20). -/

namespace Sys2Proof.Params

/-- The size of the address space in bytes (R6, R50). -/
def memorySize : Nat := 65536

/-- What every byte of a Memory holds at its construction (R51). -/
def initialByte : Byte := 0x00

/-- Where Reset reads the low byte of the new PC (R6, R60). -/
def resetVectorLow : Word := 0xFFFC

/-- Where Reset reads the high byte of the new PC (R6, R60). -/
def resetVectorHigh : Word := 0xFFFD

/-- SP after Reset (R6, R25). -/
def resetSp : Byte := 0xFD

/-- What Reset adds to the cycle counter (R6, R221). -/
def resetCycles : Nat := 6

/-- The cost of reading one byte, at PC or elsewhere (R100, R102). -/
def byteCycles : Nat := 1

/-- The cost of `FetchWord()` (R101). -/
def wordCycles : Nat := 2

/-- The cost of `Penalty()` (R103). -/
def penaltyCycles : Nat := 1

/-- What the BRK stub charges beyond its opcode fetch (R164). -/
def brkCycles : Nat := 6

/-- What NOP charges beyond its opcode fetch (R165). -/
def nopCycles : Nat := 1

end Sys2Proof.Params
end

