-- ==== Sys2Proof/Machine/State.lean ====
section
/-! DEFINITION. The state of the machine (R20, R41, R50) as plain data, the machine right after reset, and the
reasons a step could stop. -/

namespace Sys2Proof.Machine

/-- The reasons the machine could fault. There are none: "all operations are total functions over their input
domains (16-bit addresses, 8-bit values) and cannot fail" (R200), so the type has no constructor (log 13). -/
inductive Fault where
  deriving DecidableEq, Repr

/-- The reasons the model refuses an instruction. -/
inductive Refusal where
  /-- An instruction that has no meaning yet, raised by an arm of `exec` only. No arm raises it: every instruction of
  the table has its meaning. Safe. -/
  | notModelled (mnemonic : String)
  deriving DecidableEq, Repr

/-- The names of the eight status flags (R28). -/
inductive Flag where
  | c | z | i | d | b | u | v | n
  deriving DecidableEq, Repr

/-- "eight independent single-bit flags" (R28), in the order R20 lists them. -/
structure Flags where
  /-- Carry (R29). -/
  c : Bool
  /-- Zero (R30). -/
  z : Bool
  /-- Interrupt-disable; it masks nothing (R31, R212). -/
  i : Bool
  /-- Decimal; it changes no operation (R32). -/
  d : Bool
  /-- Break (R33). -/
  b : Bool
  /-- Unused, "architecturally hardwired to 1" (R34). Nothing writes it but with 1 (log 14). -/
  u : Bool
  /-- Overflow (R35). -/
  v : Bool
  /-- Negative (R36). -/
  n : Bool
  deriving DecidableEq, Repr

/-- The names of the three data registers (R6, R9). -/
inductive Reg where
  | a | x | y
  deriving DecidableEq, Repr

/-- The one flat memory (R50), as the bytes that differ from what an unlisted address holds, addresses strictly
rising (log 12). -/
abbrev Memory := List Host.Cell

/-- The engine's state (R20), its Execute target (R41) and the memory bound to it (R50). -/
structure State where
  /-- Program counter: "points to next instruction byte" (R26). -/
  pc : Word
  /-- Stack pointer, the 8 bits the host sees (R25, D12). -/
  sp : Byte
  /-- Accumulator (R21). -/
  a : Byte
  /-- Index register X (R22). -/
  x : Byte
  /-- Index register Y (R23). -/
  y : Byte
  /-- Status flags (R28). -/
  p : Flags
  /-- Cycle counter, an unbounded natural number (R38, D3, log 1). -/
  cycles : Nat
  /-- The target of the Execute command that is running, and none between commands (R41, R160, log 4). -/
  target : Option Nat
  /-- The bound memory (R50). -/
  mem : Memory
  deriving DecidableEq, Repr

/-- The machine right after reset (R40): a Memory of zeros is constructed, the engine is constructed on it, and one
Reset() runs. The vector bytes are then zero, so PC is 0x0000 (log 11; the
obligation ResetStateIsConstructThenReset says that the two commands give exactly this). -/
def State.reset : State :=
  { pc := 0x0000, sp := Params.resetSp, a := 0x00, x := 0x00, y := 0x00,
    p := { c := false, z := false, i := true, d := false, b := false, u := true, v := false, n := false },
    cycles := Params.resetCycles, target := none, mem := [] }

end Sys2Proof.Machine
end

