-- ==== Sys2Proof/Machine/Flags.lean ====
section
/-! DEFINITION. Every flag computation of the spec: reading and writing one flag (R28, R34, R42), the flags of a load
(R130), the flags after construction (R220)
and after Reset (R221), and the byte image of R37. -/

namespace Sys2Proof.Machine

/-- The flags after construction: "all flags cleared, U=1" (R220). -/
def Flags.constructed : Flags :=
  { c := false, z := false, i := false, d := false, b := false, u := true, v := false, n := false }

/-- The flags after Reset: "sets ... I=1, U=1, clears C/Z/D/B/V/N" (R221, R40), following 90_conflicts.md C1 (log 10). -/
def Flags.afterReset : Flags :=
  { c := false, z := false, i := true, d := false, b := false, u := true, v := false, n := false }

/-- Read one flag. -/
def Flags.get (p : Flags) : Flag → Bool
  | .c => p.c
  | .z => p.z
  | .i => p.i
  | .d => p.d
  | .b => p.b
  | .u => p.u
  | .v => p.v
  | .n => p.n

/-- Write one flag. A write of U is ignored: it is hard-wired (R34). -/
def Flags.set (p : Flags) (f : Flag) (value : Bool) : Flags :=
  match f with
  | .c => { p with c := value }
  | .z => { p with z := value }
  | .i => { p with i := value }
  | .d => { p with d := value }
  | .b => { p with b := value }
  | .u => p
  | .v => { p with v := value }
  | .n => { p with n := value }

/-- Z of a loaded value: "Zero = (register == 0)" (R130). -/
def zeroFlag (value : Byte) : Bool := value == 0x00

/-- N of a loaded value: "Negative = (bit 7 of register set)" (R130). -/
def negativeFlag (value : Byte) : Bool := value.getLsbD 7

/-- The flags after a load: only Z and N are written (R130). -/
def Flags.loaded (p : Flags) (value : Byte) : Flags :=
  { p with z := zeroFlag value, n := negativeFlag value }

/-- A byte image of the flags in the historical layout N V U B D I Z C, bit 7 down to bit 0. R37 offers it for display
only: no instruction and no command uses it. PRESUMED by the spec itself (R37, D11, GK2), safe, log 8. -/
def Flags.byteImage (p : Flags) : Byte :=
  BitVec.ofBoolListLE [p.c, p.z, p.i, p.d, p.b, p.u, p.v, p.n]

end Sys2Proof.Machine
end

