-- ==== Sys2Proof/Machine/Ops.lean ====
section
/-! DEFINITION. The named operations on memory and registers: the Memory accessors (R52 to R55), the register
accessors (R9), the tick, the fetch primitives (R100, R101), the charged read (R102), the penalty (R103) and the
write-back of a load (R130). The spec has no exception to take and none to return from (R200, R203, R204). -/

namespace Sys2Proof.Machine

/-! ### Memory -/

/-- The byte at an address; an address not listed holds what every byte holds at construction (R51, R52). -/
def Memory.readAt : Memory → Nat → Byte
  | [], _ => Params.initialByte
  | (k, v) :: rest, a => if k = a then v else Memory.readAt rest a

/-- Put a byte at an address, keeping the canonical form: a byte equal to the initial one is not listed (R53). -/
def Memory.writeAt : Memory → Nat → Byte → Memory
  | [], a, v => if v = Params.initialByte then [] else [(a, v)]
  | (k, w) :: rest, a, v =>
    if a < k then
      if v = Params.initialByte then (k, w) :: rest else (a, v) :: (k, w) :: rest
    else if a = k then
      if v = Params.initialByte then rest else (a, v) :: rest
    else (k, w) :: Memory.writeAt rest a v

/-- The canonical form from an address on: addresses strictly rising from `low`, all inside the address space, no
byte listed that equals the initial one. -/
def Memory.wfFrom : Nat → Memory → Bool
  | _, [] => true
  | low, (k, v) :: rest =>
    decide (low ≤ k) && decide (k < Params.memorySize) && (v != Params.initialByte) && Memory.wfFrom (k + 1) rest

/-- The canonical form of a memory: equal memories are equal lists. -/
def Memory.wf (m : Memory) : Bool := Memory.wfFrom 0 m

/-- `MemRead(addr, 1)` (R52): it never fails and changes nothing. -/
def Memory.read (m : Memory) (addr : Word) : Byte := Memory.readAt m addr.toNat

/-- `MemRead(addr, 2)` (R54): little-endian, the second address modulo 65536. -/
def Memory.readWord (m : Memory) (addr : Word) : Word :=
  concat (Memory.read m (addr + 1)) (Memory.read m addr)

/-- `MemWrite(addr, 1, v)` (R53). Only the host issues it (R58). -/
def Memory.write (m : Memory) (addr : Word) (v : Byte) : Memory := Memory.writeAt m addr.toNat v

/-- `MemWrite(addr, 2, v)` (R55): low byte at `addr`, high byte at `addr + 1` modulo 65536. -/
def Memory.writeWord (m : Memory) (addr : Word) (v : Word) : Memory :=
  Memory.write (Memory.write m addr (loByte v)) (addr + 1) (hiByte v)

/-- Store bytes one after another from an address on, wrapping modulo 65536. -/
def Memory.writeBytes (m : Memory) (addr : Word) : List Byte → Memory
  | [] => m
  | v :: rest => Memory.writeBytes (Memory.write m addr v) (addr + 1) rest

/-! ### Registers -/

/-- `x[R]` (R9). -/
def State.reg (s : State) : Reg → Byte
  | .a => s.a
  | .x => s.x
  | .y => s.y

/-- `x[R] <- v` (R9). -/
def State.setReg (s : State) (r : Reg) (v : Byte) : State :=
  match r with
  | .a => { s with a := v }
  | .x => { s with x := v }
  | .y => { s with y := v }

/-! ### Cycles, fetches and reads -/

/-- `tick(n)`: add n to the cycle counter (R9). -/
def State.tick (s : State) (n : Nat) : State := { s with cycles := s.cycles + n }

/-- What `FetchByte()` does once the byte at PC is known to be `b`: PC advances by 1 modulo 65536, one cycle is
charged, `b` is the result (R100). -/
def State.consumeByte (s : State) (b : Byte) : Byte × State :=
  (b, { s with pc := s.pc + 1, cycles := s.cycles + Params.byteCycles })

/-- What `FetchWord()` does once the word at PC is known to be `w`: PC advances by 2 modulo 65536, two cycles are
charged, `w` is the result (R101). -/
def State.consumeWord (s : State) (w : Word) : Word × State :=
  (w, { s with pc := s.pc + 2, cycles := s.cycles + Params.wordCycles })

/-- `FetchByte()` (R100). -/
def State.fetchByte (s : State) : Byte × State := s.consumeByte (Memory.read s.mem s.pc)

/-- `FetchWord()` (R101). -/
def State.fetchWord (s : State) : Word × State := s.consumeWord (Memory.readWord s.mem s.pc)

/-- `ReadByteAndTick(addr)` (R102): PC is not touched. -/
def State.readByteAndTick (s : State) (addr : Word) : Byte × State :=
  (Memory.read s.mem addr, s.tick Params.byteCycles)

/-- `Penalty()` (R103): one cycle, no memory access (D13, log 16). -/
def State.penalty (s : State) : State := s.tick Params.penaltyCycles

/-- `if cond then Penalty()` (R109, R110, R112). -/
def State.penaltyIf (s : State) (cond : Bool) : State := if cond then s.penalty else s

/-! ### Write-back of a load -/

/-- `SetLoad(R, v)` (R130): the register, then Z and N; nothing else, and no cycle. -/
def State.setLoad (s : State) (r : Reg) (v : Byte) : State :=
  { s.setReg r v with p := s.p.loaded v }

end Sys2Proof.Machine
end

