-- ==== Sys2Proof/Machine/Control.lean ====
section
/-! DEFINITION. The control instructions: the BRK stub (R164), NOP (R165) and the undefined-opcode fallback (R166). Each
begins after the opcode fetch of R161. -/

namespace Sys2Proof.Machine

/-- BRK, a stub with "no actual break semantics": it charges 6 more cycles and nothing else happens, so its length
is 1 (R164). DESIGN CHOICE of the spec (D5), unsafe, log 9. -/
def execBrk (s : State) : Host.Outcome State Fault Refusal := .next (s.tick Params.brkCycles)

/-- NOP "charges 1 additional cycle" (R165). -/
def execNop (s : State) : Host.Outcome State Fault Refusal := .next (s.tick Params.nopCycles)

/-- An undefined opcode: the body is empty (R166). The byte itself changes nothing. -/
def execUndef (_op : Byte) (s : State) : Host.Outcome State Fault Refusal := .next s

end Sys2Proof.Machine
end

