-- ==== Sys2Proof/Machine/Operands.lean ====
section
/-! DEFINITION. The addressing-mode resolvers (R105 to R112) and the operand read (R114). A resolver takes what its
`FetchByte()` or `FetchWord()` returned, the operand field and the state after it, and gives the effective address and
the state after it: `eaZpX (s.consumeByte zp)` is EA_ZPX of R107 for an instruction whose zp8 is `zp`. Immediate
operands need no resolver (R104): their operand is the fetched byte. The order of a penalty among the reads is R111's;
no order can be observed (R117, D14). -/

namespace Sys2Proof.Machine

/-- `PageCross(base, ea)`: the high bytes differ (R113). -/
def pageCross (base ea : Word) : Bool := hiByte base != hiByte ea

/-- EA_ZP (R105): "high byte implicitly 0". -/
def eaZp (fetched : Byte × State) : Word × State := (zext16 fetched.1, fetched.2)

/-- EA_ABS (R106): the fetched word is the address. -/
def eaAbs (fetched : Word × State) : Word × State := fetched

/-- Zero page indexed by a register (R107, R108): 8-bit wrap, and the extra cycle always. -/
def eaZpIndexed (index : Reg) (fetched : Byte × State) : Word × State :=
  (zext16 (fetched.1 + fetched.2.reg index), fetched.2.penalty)

/-- EA_ZPX (R107). -/
def eaZpX (fetched : Byte × State) : Word × State := eaZpIndexed .x fetched

/-- EA_ZPY (R108). -/
def eaZpY (fetched : Byte × State) : Word × State := eaZpIndexed .y fetched

/-- A 16-bit base indexed by a register (R109, R110, and the last lines of R112): 16-bit wrap, and the extra cycle
only on a page cross. -/
def indexBase (index : Reg) (base : Word × State) : Word × State :=
  let ea := base.1 + zext16 (base.2.reg index)
  (ea, base.2.penaltyIf (pageCross base.1 ea))

/-- EA_ABSX (R109). -/
def eaAbsX (fetched : Word × State) : Word × State := indexBase .x fetched

/-- EA_ABSY (R110). -/
def eaAbsY (fetched : Word × State) : Word × State := indexBase .y fetched

/-- The two charged reads of a zero-page pointer, low byte first, the second address wrapped in page 0
(R111, R112). -/
def readPointer (ptr : Byte) (s : State) : Word × State :=
  let low := s.readByteAndTick (zext16 ptr)
  let high := low.2.readByteAndTick (zext16 (ptr + 1))
  (concat high.1 low.1, high.2)

/-- EA_INDX (R111): the pointer is at zp + X in page 0, with the extra cycle always; the address read is not indexed. -/
def eaIndX (fetched : Byte × State) : Word × State :=
  readPointer (fetched.1 + fetched.2.reg .x) fetched.2.penalty

/-- EA_INDY (R112): the base is read through the pointer at zp, then indexed by Y. -/
def eaIndY (fetched : Byte × State) : Word × State := indexBase .y (readPointer fetched.1 fetched.2)

/-- The operand at an effective address: one charged read (R114). -/
def readOperand (ea : Word × State) : Byte × State := ea.2.readByteAndTick ea.1

/-- The write-back of a load whose operand value, and the state after reading it, are given (R130). -/
def loadValue (r : Reg) (operand : Byte × State) : State := operand.2.setLoad r operand.1

end Sys2Proof.Machine
end

