-- ==== Sys2Proof/Machine/Loads.lean ====
section
/-! DEFINITION. The load instructions, one definition per form (R131 to R148). Each begins after the opcode fetch of
R161, which has charged 1 cycle and advanced PC by 1. -/

namespace Sys2Proof.Machine

/-- LDA #imm (R131). -/
def execLdaImm (imm : Byte) (s : State) : Host.Outcome State Fault Refusal :=
  .next (loadValue .a (s.consumeByte imm))

/-- LDA zp (R132). -/
def execLdaZp (zp : Byte) (s : State) : Host.Outcome State Fault Refusal :=
  .next (loadValue .a (readOperand (eaZp (s.consumeByte zp))))

/-- LDA zp,X (R133). -/
def execLdaZpX (zp : Byte) (s : State) : Host.Outcome State Fault Refusal :=
  .next (loadValue .a (readOperand (eaZpX (s.consumeByte zp))))

/-- LDA abs (R134). -/
def execLdaAbs (addr : Word) (s : State) : Host.Outcome State Fault Refusal :=
  .next (loadValue .a (readOperand (eaAbs (s.consumeWord addr))))

/-- LDA abs,X (R135). -/
def execLdaAbsX (addr : Word) (s : State) : Host.Outcome State Fault Refusal :=
  .next (loadValue .a (readOperand (eaAbsX (s.consumeWord addr))))

/-- LDA abs,Y (R136). -/
def execLdaAbsY (addr : Word) (s : State) : Host.Outcome State Fault Refusal :=
  .next (loadValue .a (readOperand (eaAbsY (s.consumeWord addr))))

/-- LDA (ind,X) (R137). -/
def execLdaIndX (zp : Byte) (s : State) : Host.Outcome State Fault Refusal :=
  .next (loadValue .a (readOperand (eaIndX (s.consumeByte zp))))

/-- LDA (ind),Y (R138). -/
def execLdaIndY (zp : Byte) (s : State) : Host.Outcome State Fault Refusal :=
  .next (loadValue .a (readOperand (eaIndY (s.consumeByte zp))))

/-- LDX #imm (R139). -/
def execLdxImm (imm : Byte) (s : State) : Host.Outcome State Fault Refusal :=
  .next (loadValue .x (s.consumeByte imm))

/-- LDX zp (R140). -/
def execLdxZp (zp : Byte) (s : State) : Host.Outcome State Fault Refusal :=
  .next (loadValue .x (readOperand (eaZp (s.consumeByte zp))))

/-- LDX zp,Y (R141). -/
def execLdxZpY (zp : Byte) (s : State) : Host.Outcome State Fault Refusal :=
  .next (loadValue .x (readOperand (eaZpY (s.consumeByte zp))))

/-- LDX abs (R142). -/
def execLdxAbs (addr : Word) (s : State) : Host.Outcome State Fault Refusal :=
  .next (loadValue .x (readOperand (eaAbs (s.consumeWord addr))))

/-- LDX abs,Y (R143). -/
def execLdxAbsY (addr : Word) (s : State) : Host.Outcome State Fault Refusal :=
  .next (loadValue .x (readOperand (eaAbsY (s.consumeWord addr))))

/-- LDY #imm (R144). -/
def execLdyImm (imm : Byte) (s : State) : Host.Outcome State Fault Refusal :=
  .next (loadValue .y (s.consumeByte imm))

/-- LDY zp (R145). -/
def execLdyZp (zp : Byte) (s : State) : Host.Outcome State Fault Refusal :=
  .next (loadValue .y (readOperand (eaZp (s.consumeByte zp))))

/-- LDY zp,X (R146). -/
def execLdyZpX (zp : Byte) (s : State) : Host.Outcome State Fault Refusal :=
  .next (loadValue .y (readOperand (eaZpX (s.consumeByte zp))))

/-- LDY abs (R147). -/
def execLdyAbs (addr : Word) (s : State) : Host.Outcome State Fault Refusal :=
  .next (loadValue .y (readOperand (eaAbs (s.consumeWord addr))))

/-- LDY abs,X (R148). -/
def execLdyAbsX (addr : Word) (s : State) : Host.Outcome State Fault Refusal :=
  .next (loadValue .y (readOperand (eaAbsX (s.consumeWord addr))))

end Sys2Proof.Machine
end

