-- ==== Sys2Proof/Syntax.lean ====
section
/-! DEFINITION. The instructions: one constructor per row of spec/opcode_table.json, carrying the operand fields
that R71 and R72 give its format (imm8, zp8, addr16). -/

namespace Sys2Proof

/-- The instruction forms of the subset (R74) and the undefined-opcode fallback (R76). -/
inductive Instr where
  /-- 0x00 BRK, the break stub (R164). -/
  | brk
  /-- 0xEA NOP (R165). -/
  | nop
  /-- 0xA9 LDA #imm (R131). -/
  | ldaImm (imm : Byte)
  /-- 0xA5 LDA zp (R132). -/
  | ldaZp (zp : Byte)
  /-- 0xB5 LDA zp,X (R133). -/
  | ldaZpX (zp : Byte)
  /-- 0xAD LDA abs (R134). -/
  | ldaAbs (addr : Word)
  /-- 0xBD LDA abs,X (R135). -/
  | ldaAbsX (addr : Word)
  /-- 0xB9 LDA abs,Y (R136). -/
  | ldaAbsY (addr : Word)
  /-- 0xA1 LDA (ind,X) (R137). -/
  | ldaIndX (zp : Byte)
  /-- 0xB1 LDA (ind),Y (R138). -/
  | ldaIndY (zp : Byte)
  /-- 0xA2 LDX #imm (R139). -/
  | ldxImm (imm : Byte)
  /-- 0xA6 LDX zp (R140). -/
  | ldxZp (zp : Byte)
  /-- 0xB6 LDX zp,Y (R141). -/
  | ldxZpY (zp : Byte)
  /-- 0xAE LDX abs (R142). -/
  | ldxAbs (addr : Word)
  /-- 0xBE LDX abs,Y (R143). -/
  | ldxAbsY (addr : Word)
  /-- 0xA0 LDY #imm (R144). -/
  | ldyImm (imm : Byte)
  /-- 0xA4 LDY zp (R145). -/
  | ldyZp (zp : Byte)
  /-- 0xB4 LDY zp,X (R146). -/
  | ldyZpX (zp : Byte)
  /-- 0xAC LDY abs (R147). -/
  | ldyAbs (addr : Word)
  /-- 0xBC LDY abs,X (R148). -/
  | ldyAbsX (addr : Word)
  /-- Any opcode byte of none of the rows above, run as a no-op (R76, R166). It keeps the byte it was decoded from. -/
  | undef (op : Byte)
  deriving DecidableEq, Repr

end Sys2Proof
end

