-- ==== Sys2Proof/Machine/Opcodes.lean ====
section
/-! DEFINITION. The opcode map of R74 as one table, in R74's order. Opcode bytes other than 0xA9 are the historical
6502 values as R74 gives them: PRESUMED by the spec itself (D10, GK1), unsafe, log 2. -/

namespace Sys2Proof

/-- One row of R74: the opcode byte, the length in bytes (R78), and the instruction built from the two bytes that
follow the opcode, of which a format uses as many as its length says (R71). -/
structure OpcodeRow where
  opcode : Byte
  length : Nat
  build : Byte → Byte → Instr

/-- R74's two control rows and eight LDA rows. -/
def opcodeTableControlLda : List OpcodeRow :=
  [ ⟨0x00, 1, fun _ _ => .brk⟩,
    ⟨0xEA, 1, fun _ _ => .nop⟩,
    ⟨0xA9, 2, fun b1 _ => .ldaImm b1⟩,
    ⟨0xA5, 2, fun b1 _ => .ldaZp b1⟩,
    ⟨0xB5, 2, fun b1 _ => .ldaZpX b1⟩,
    ⟨0xAD, 3, fun b1 b2 => .ldaAbs (concat b2 b1)⟩,
    ⟨0xBD, 3, fun b1 b2 => .ldaAbsX (concat b2 b1)⟩,
    ⟨0xB9, 3, fun b1 b2 => .ldaAbsY (concat b2 b1)⟩,
    ⟨0xA1, 2, fun b1 _ => .ldaIndX b1⟩,
    ⟨0xB1, 2, fun b1 _ => .ldaIndY b1⟩ ]

/-- R74's five LDX rows and five LDY rows. -/
def opcodeTableLdxLdy : List OpcodeRow :=
  [ ⟨0xA2, 2, fun b1 _ => .ldxImm b1⟩,
    ⟨0xA6, 2, fun b1 _ => .ldxZp b1⟩,
    ⟨0xB6, 2, fun b1 _ => .ldxZpY b1⟩,
    ⟨0xAE, 3, fun b1 b2 => .ldxAbs (concat b2 b1)⟩,
    ⟨0xBE, 3, fun b1 b2 => .ldxAbsY (concat b2 b1)⟩,
    ⟨0xA0, 2, fun b1 _ => .ldyImm b1⟩,
    ⟨0xA4, 2, fun b1 _ => .ldyZp b1⟩,
    ⟨0xB4, 2, fun b1 _ => .ldyZpX b1⟩,
    ⟨0xAC, 3, fun b1 b2 => .ldyAbs (concat b2 b1)⟩,
    ⟨0xBC, 3, fun b1 b2 => .ldyAbsX (concat b2 b1)⟩ ]

/-- The 20 defined opcodes (R74). -/
def opcodeTable : List OpcodeRow := opcodeTableControlLda ++ opcodeTableLdxLdy

/-- The row of an opcode byte, where it has one. -/
def opcodeRow (op : Byte) : Option OpcodeRow := opcodeTable.find? fun r => r.opcode == op

/-- Whether an opcode byte is one of R74's 20. The other 236 are undefined (R76). -/
def isDefinedOpcode (op : Byte) : Bool := (opcodeRow op).isSome

end Sys2Proof
end

