-- ==== Sys2Proof/WellFormed.lean ====
section
/-! DEFINITION. Which instruction terms stand for an instruction of the machine. Every operand field is exactly as
wide as its encoding (R71), so the one check is on `undef`: its byte must be none of R74's 20 opcodes (R76). -/

namespace Sys2Proof

/-- An instruction that some bytes decode to (R76: UNDEF is "every one of the 236 byte values not in rule R74"). -/
def Instr.wellFormed : Instr → Bool
  | .undef op => !isDefinedOpcode op
  | .brk | .nop => true
  | .ldaImm _ | .ldaZp _ | .ldaZpX _ | .ldaAbs _ | .ldaAbsX _ | .ldaAbsY _ | .ldaIndX _ | .ldaIndY _ => true
  | .ldxImm _ | .ldxZp _ | .ldxZpY _ | .ldxAbs _ | .ldxAbsY _ => true
  | .ldyImm _ | .ldyZp _ | .ldyZpX _ | .ldyAbs _ | .ldyAbsX _ => true

end Sys2Proof
end

