-- ==== Sys2Proof/Decode.lean ====
section
/-! DEFINITION. The decoder (R70, R72, R77, R78, R162) and, after it, the encoder. Decoding depends on the opcode
byte alone; every byte value is one of the 20 defined instructions or the undefined fallback. -/

namespace Sys2Proof

/-- The instruction whose opcode byte is `op` and whose next two bytes are `b1` and `b2`, of which it uses those its
length covers (R70, R162). Total: an opcode outside R74 is UNDEF (R76). -/
def decodeBytes (op b1 b2 : Byte) : Instr :=
  match opcodeRow op with
  | some r => r.build b1 b2
  | none => .undef op

/-- The length of the instruction an opcode byte begins (R78). -/
def lengthOfOpcode (op : Byte) : Nat :=
  match opcodeRow op with
  | some r => r.length
  | none => 1

/-- Why a list of bytes is no instruction. -/
inductive DecodeError where
  /-- The list ends before the instruction does. A finite list can do so; the machine's memory cannot, since the
  address of the next byte wraps (R70), so no step meets this. Safe. -/
  | truncated
  deriving DecidableEq, Repr

/-- Decode the first instruction of a byte list: the instruction and the bytes after it (R70, R78). -/
def decode : List Byte → Except DecodeError (Instr × List Byte)
  | [] => .error .truncated
  | op :: rest =>
    let extra := lengthOfOpcode op - 1
    if rest.length < extra then .error .truncated
    else .ok (decodeBytes op (rest.getD 0 0) (rest.getD 1 0), rest.drop extra)

/-- The opcode byte of each instruction, from R74's table read the other way. -/
def Instr.opcode : Instr → Byte
  | .brk => 0x00
  | .nop => 0xEA
  | .ldaImm _ => 0xA9
  | .ldaZp _ => 0xA5
  | .ldaZpX _ => 0xB5
  | .ldaAbs _ => 0xAD
  | .ldaAbsX _ => 0xBD
  | .ldaAbsY _ => 0xB9
  | .ldaIndX _ => 0xA1
  | .ldaIndY _ => 0xB1
  | .ldxImm _ => 0xA2
  | .ldxZp _ => 0xA6
  | .ldxZpY _ => 0xB6
  | .ldxAbs _ => 0xAE
  | .ldxAbsY _ => 0xBE
  | .ldyImm _ => 0xA0
  | .ldyZp _ => 0xA4
  | .ldyZpX _ => 0xB4
  | .ldyAbs _ => 0xAC
  | .ldyAbsX _ => 0xBC
  | .undef op => op

/-- The operand bytes after the opcode, in the order they are stored: a 16-bit address low byte first (R71, R72). -/
def Instr.operandBytes : Instr → List Byte
  | .brk | .nop | .undef _ => []
  | .ldaImm b | .ldaZp b | .ldaZpX b | .ldaIndX b | .ldaIndY b => [b]
  | .ldxImm b | .ldxZp b | .ldxZpY b => [b]
  | .ldyImm b | .ldyZp b | .ldyZpX b => [b]
  | .ldaAbs w | .ldaAbsX w | .ldaAbsY w => [loByte w, hiByte w]
  | .ldxAbs w | .ldxAbsY w => [loByte w, hiByte w]
  | .ldyAbs w | .ldyAbsX w => [loByte w, hiByte w]

/-- The bytes of an instruction (R70). -/
def encode (i : Instr) : List Byte := i.opcode :: i.operandBytes

/-- Byte `k` of the first `nbits` bits of `w`, bit 0 the least significant bit of the first byte. -/
def tableByte (nbits w k : Nat) : Byte := BitVec.ofNat 8 (w % 2 ^ nbits / 256 ^ k)

/-- What the decoder reads from a word numbered as spec/opcode_table.json numbers it, operand bytes beyond `nbits`
being zero. -/
def decodeTableWord (nbits w : Nat) : Option Instr :=
  match decode [tableByte nbits w 0, tableByte nbits w 1, tableByte nbits w 2] with
  | .ok (i, _) => some i
  | .error _ => none

end Sys2Proof
end

