-- ==== Sys2Proof/Machine/Fetch.lean ====
section
/-! DEFINITION. Fetching an instruction at PC, and placing one there. -/

namespace Sys2Proof.Machine

/-- The instruction the bytes at PC stand for: the opcode at PC, its operand bytes at the next addresses modulo 65536
(R70). -/
def instrAt (s : State) : Instr :=
  decodeBytes (Memory.read s.mem s.pc) (Memory.read s.mem (s.pc + 1)) (Memory.read s.mem (s.pc + 2))

/-- Fetch: the opcode with `FetchByte()` (R161), and the instruction it begins. The operand bytes are looked at here so
that the instruction carries its operand fields; the body advances PC over them and charges their cycles. The look is
free of effect, since reads are pure (R59) and the engine never writes memory (R58). DEDUCED, safe, log 3. -/
def fetchInstr (s : State) : Instr × State := (instrAt s, s.fetchByte.2)

/-- The state with bytes stored from PC on, as a host places a program there (R53, R224). -/
def placeAtPc (s : State) (bytes : List Byte) : State :=
  { s with mem := Memory.writeBytes s.mem s.pc bytes }

end Sys2Proof.Machine
end

