-- ==== Sys2Proof/Machine/Step.lean ====
section
/-! DEFINITION. One step of the engine: `Step()` of R161. -/

namespace Sys2Proof.Machine

/-- `Step()` (R161): fetch the opcode, then run the body that decoding selects. -/
def step (s : State) : Host.Outcome State Fault Refusal :=
  exec (fetchInstr s).1 (fetchInstr s).2

/-- `s` with the instruction whose opcode-table word is `w` stored at PC, operand bytes beyond `nbits` zero. It stands
for the host's load of a program (R224, log 11). -/
def State.withFetchWord (s : State) (nbits w : Nat) : State :=
  placeAtPc s [tableByte nbits w 0, tableByte nbits w 1, tableByte nbits w 2]

end Sys2Proof.Machine
end

