-- ==== Sys2Proof/Machine/Pseudocode.lean ====
section
/-! DEFINITION. R161's `Step()` transcribed with every operand fetched from memory at PC inside the body, as the spec's
pseudocode has it, over a dispatch map written from R75's grid. The model's `step` decodes the operands first; the
obligation StepAgreesWithPseudocode says that the two are one function. Statements alone use this file. -/

namespace Sys2Proof.Machine

/-- The operand formats of R71 that a load can have. -/
inductive Mode where
  | imm | zp | zpX | zpY | abs | absX | absY | indX | indY
  deriving DecidableEq, Repr

/-- What `Decode(op)` selects (R161, R162). -/
inductive Body where
  | load (r : Reg) (m : Mode)
  | brk
  | nop
  | undef
  deriving DecidableEq, Repr

/-- `Decode(op)` (R162), read row by row from the 16 x 16 grid of R75. -/
def bodyOfOpcode (op : Byte) : Body :=
  match op.toNat with
  | 0x00 => .brk
  | 0xA0 => .load .y .imm
  | 0xA1 => .load .a .indX
  | 0xA2 => .load .x .imm
  | 0xA4 => .load .y .zp
  | 0xA5 => .load .a .zp
  | 0xA6 => .load .x .zp
  | 0xA9 => .load .a .imm
  | 0xAC => .load .y .abs
  | 0xAD => .load .a .abs
  | 0xAE => .load .x .abs
  | 0xB1 => .load .a .indY
  | 0xB4 => .load .y .zpX
  | 0xB5 => .load .a .zpX
  | 0xB6 => .load .x .zpY
  | 0xB9 => .load .a .absY
  | 0xBC => .load .y .absX
  | 0xBD => .load .a .absX
  | 0xBE => .load .x .absY
  | 0xEA => .nop
  | _ => .undef

/-- `Operand(mode)` (R114), each resolver beginning with its own fetch at PC (R104 to R112). -/
def operandOfMode (m : Mode) (s : State) : Byte × State :=
  match m with
  | .imm => s.fetchByte
  | .zp => readOperand (eaZp s.fetchByte)
  | .zpX => readOperand (eaZpX s.fetchByte)
  | .zpY => readOperand (eaZpY s.fetchByte)
  | .abs => readOperand (eaAbs s.fetchWord)
  | .absX => readOperand (eaAbsX s.fetchWord)
  | .absY => readOperand (eaAbsY s.fetchWord)
  | .indX => readOperand (eaIndX s.fetchByte)
  | .indY => readOperand (eaIndY s.fetchByte)

/-- `Step()` as R161 writes it. -/
def pseudocodeStep (s : State) : State :=
  match bodyOfOpcode s.fetchByte.1 with
  | .load r m => loadValue r (operandOfMode m s.fetchByte.2)
  | .brk => s.fetchByte.2.tick Params.brkCycles
  | .nop => s.fetchByte.2.tick Params.nopCycles
  | .undef => s.fetchByte.2

end Sys2Proof.Machine
end

