-- ==== Sys2Proof/Config.lean ====
section
/-! DEFINITION. What an implementation fixes and the spec leaves open: the width of the cycle counter, the spec's
one OPEN parameter (R6, R38, D3). The numeric literals of R6 and R7 are in Machine/Params.lean. -/

namespace Sys2Proof.Config

/-- How many bits the cycle counter has beyond the least width allowed. It has no body: nothing can be proved of it.
DESIGN CHOICE of the spec (D3), log 1. -/
opaque cycleWidthBeyond32 : Nat

/-- `CYCLE_WIDTH`: the cycle counter is "32-bit-or-wider" (R6, R38). -/
def cycleWidth : Nat := 32 + cycleWidthBeyond32

end Sys2Proof.Config
end

