-- ==== Sys2Proof/Machine/Commands.lean ====
section
/-! DEFINITION. The host's side of the interface (R11, R42): the three commands Construct (R220), Reset (R221) and
Execute (R160), the moves between commands, and the observation outputs. A command runs to completion before the next
(R11), so each is one function; the host has no move while Execute runs (R67, R169; log 19). -/

namespace Sys2Proof.Machine

/-- `Construct(memory)` (R220): it reads no memory. The memory is the launch's parameter (D16, log 12). -/
def construct (memory : Memory) : State :=
  { pc := 0x0000, sp := 0x00, a := 0x00, x := 0x00, y := 0x00, p := Flags.constructed, cycles := 0, target := none,
    mem := memory }

/-- The address in the reset vector: `{MemRead(0xFFFD, 1), MemRead(0xFFFC, 1)}` (R221). -/
def resetVector (m : Memory) : Word :=
  concat (Memory.read m Params.resetVectorHigh) (Memory.read m Params.resetVectorLow)

/-- `Reset()` (R221): A, X, Y and memory are unchanged, and 6 cycles are added. The clearing of C, Z, D, B, V and N
follows 90_conflicts.md C1 (log 10). -/
def resetCommand (s : State) : State :=
  { s with sp := Params.resetSp, p := Flags.afterReset, pc := resetVector s.mem,
           cycles := s.cycles + Params.resetCycles }

/-- The loop of `Execute` (R160): while the counter is below the target, one Step. `fuel` bounds the number of
iterations; every step costs at least 1 cycle (R163), so a budget of n needs no more than n (log 6). -/
def executeLoop : Nat → State → Host.Outcome State Fault Refusal
  | 0, s => .next s
  | fuel + 1, s =>
    match s.target with
    | none => .next s
    | some target =>
      if s.cycles < target then
        match step s with
        | .next s' => executeLoop fuel s'
        | .fault r => .fault r
        | .refused r => .refused r
      else .next s

/-- `target <- cycles + n` (R160). -/
def beginExecute (n : Nat) (s : State) : State := { s with target := some (s.cycles + n) }

/-- The command returns: its target lives no longer (R41, R160). -/
def endExecute (s : State) : State := { s with target := none }

/-- `Execute(n)` for a natural budget n (R160). The test comes before the first iteration too, so `Execute(0)` runs
nothing: DESIGN CHOICE of the spec (D2), unsafe for n = 0, log 5. -/
def execute (n : Nat) (s : State) : Host.Outcome State Fault Refusal :=
  match executeLoop n (beginExecute n s) with
  | .next s' => .next (endExecute s')
  | .fault r => .fault r
  | .refused r => .refused r

/-- The host sets one flag between commands; a write of U leaves it 1 (R42, R34; D4, log 18). -/
def hostSetFlag (f : Flag) (value : Bool) (s : State) : State := { s with p := s.p.set f value }

/-- The host writes one byte of memory between commands (R53). -/
def hostWriteByte (addr : Word) (v : Byte) (s : State) : State := { s with mem := Memory.write s.mem addr v }

/-- The host writes one word of memory between commands (R55). -/
def hostWriteWord (addr : Word) (v : Word) (s : State) : State := { s with mem := Memory.writeWord s.mem addr v }

/-- Every move of the host that changes state (R11, R42). -/
inductive Command where
  | construct (memory : Memory)
  | reset
  | execute (n : Nat)
  | setFlag (f : Flag) (value : Bool)
  | writeByte (addr : Word) (v : Byte)
  | writeWord (addr : Word) (v : Word)
  deriving DecidableEq, Repr

/-- Run one move of the host. There is no other: the host cannot write pc, sp, a, x, y or cycles (R42, D22). -/
def runCommand : Command → State → Host.Outcome State Fault Refusal
  | .construct memory, _ => .next (construct memory)
  | .reset, s => .next (resetCommand s)
  | .execute n, s => execute n s
  | .setFlag f value, s => .next (hostSetFlag f value s)
  | .writeByte addr v, s => .next (hostWriteByte addr v s)
  | .writeWord addr v, s => .next (hostWriteWord addr v s)

/-- The observation outputs, readable between commands (R11, R42). Memory is read through `Memory.read` and
`Memory.readWord` (R52, R54). -/
structure Observation where
  pc : Word
  sp : Byte
  a : Byte
  x : Byte
  y : Byte
  cycles : Nat
  flags : Flags
  deriving DecidableEq, Repr

/-- What the host reads of the engine. -/
def observe (s : State) : Observation :=
  { pc := s.pc, sp := s.sp, a := s.a, x := s.x, y := s.y, cycles := s.cycles, flags := s.p }

end Sys2Proof.Machine
end

