-- ==== Sys2Proof/Safety.lean ====
section
/-! DEFINITION. The terms the claims use: the premise on the cycle counter and the host's duty to keep it (R38, R227), the invariant of every state a
host can reach, the documented cost and length of each instruction (R228), and which register a form loads. -/

namespace Sys2Proof.Machine

/-- Adding `n` to the cycle counter keeps it inside its width: the premise a claim about the counter carries
(R38, R227, D3). -/
def CounterFits (s : State) (n : Nat) : Prop := s.cycles + n < 2 ^ Config.cycleWidth

/-- The host's duty to keep the counter in range (R227), for each of its moves from a state: a claim about `Execute(n)`
from a count c carries the premise `c + n + 6 < 2^CYCLE_WIDTH`, the 6 covering the overshoot of R163; Reset adds 6 (R221);
no other move adds to the counter. -/
def Command.InRange (c : Command) (s : State) : Prop :=
  match c with
  | .execute n => CounterFits s (n + 6)
  | .reset => CounterFits s Params.resetCycles
  | .construct _ | .setFlag _ _ | .writeByte _ _ | .writeWord _ _ => True

/-- What holds of every state at every point between commands: memory is in its canonical form, and U is 1 (R34). -/
def State.Inv (s : State) : Prop := s.mem.wf = true ∧ s.p.u = true

/-- A host move that hands over a memory hands over a canonical one. Every list of 65536 bytes has exactly one canonical
form, so this shuts out no memory. -/
def Command.Canonical : Command → Prop
  | .construct memory => Memory.wf memory = true
  | .reset | .execute _ | .setFlag _ _ | .writeByte _ _ | .writeWord _ _ => True

end Sys2Proof.Machine

namespace Sys2Proof

open Sys2Proof.Machine

/-- The "cycles" column of R228's table without its "+p", the opcode fetch included. -/
def Instr.baseCycles : Instr → Nat
  | .brk => 7
  | .nop => 2
  | .ldaImm _ => 2
  | .ldaZp _ => 3
  | .ldaZpX _ => 4
  | .ldaAbs _ => 4
  | .ldaAbsX _ => 4
  | .ldaAbsY _ => 4
  | .ldaIndX _ => 6
  | .ldaIndY _ => 5
  | .ldxImm _ => 2
  | .ldxZp _ => 3
  | .ldxZpY _ => 4
  | .ldxAbs _ => 4
  | .ldxAbsY _ => 4
  | .ldyImm _ => 2
  | .ldyZp _ => 3
  | .ldyZpX _ => 4
  | .ldyAbs _ => 4
  | .ldyAbsX _ => 4
  | .undef _ => 1

/-- The "length" column of R228's table. -/
def Instr.length : Instr → Nat
  | .brk | .nop | .undef _ => 1
  | .ldaImm _ | .ldaZp _ | .ldaZpX _ | .ldaIndX _ | .ldaIndY _ => 2
  | .ldxImm _ | .ldxZp _ | .ldxZpY _ => 2
  | .ldyImm _ | .ldyZp _ | .ldyZpX _ => 2
  | .ldaAbs _ | .ldaAbsX _ | .ldaAbsY _ => 3
  | .ldxAbs _ | .ldxAbsY _ => 3
  | .ldyAbs _ | .ldyAbsX _ => 3

/-- The base address an instruction with a "+p" adds its index to, and that index (R109, R110, R112). -/
def Instr.indexedBase (i : Instr) (s : State) : Option (Word × Byte) :=
  match i with
  | .ldaAbsX addr | .ldyAbsX addr => some (addr, s.x)
  | .ldaAbsY addr | .ldxAbsY addr => some (addr, s.y)
  | .ldaIndY zp => some (concat (s.mem.read (zext16 (zp + 1))) (s.mem.read (zext16 zp)), s.y)
  | .brk | .nop | .undef _ | .ldaImm _ | .ldaZp _ | .ldaZpX _ | .ldaAbs _ | .ldaIndX _ => none
  | .ldxImm _ | .ldxZp _ | .ldxZpY _ | .ldxAbs _ | .ldyImm _ | .ldyZp _ | .ldyZpX _ | .ldyAbs _ => none

/-- The cost R228 documents for an instruction at the operands at hand: one more where the addition of the index
changes the high byte of the base (R113, R170). -/
def Instr.documentedCycles (i : Instr) (s : State) : Nat :=
  match i.indexedBase s with
  | some (base, index) =>
    if hiByte base = hiByte (base + zext16 index) then i.baseCycles else i.baseCycles + 1
  | none => i.baseCycles

/-- The register a load writes (R21, R22, R23), and none for BRK, NOP and UNDEF. -/
def Instr.dest : Instr → Option Reg
  | .ldaImm _ | .ldaZp _ | .ldaZpX _ | .ldaAbs _ | .ldaAbsX _ | .ldaAbsY _ | .ldaIndX _ | .ldaIndY _ => some .a
  | .ldxImm _ | .ldxZp _ | .ldxZpY _ | .ldxAbs _ | .ldxAbsY _ => some .x
  | .ldyImm _ | .ldyZp _ | .ldyZpX _ | .ldyAbs _ | .ldyAbsX _ => some .y
  | .brk | .nop | .undef _ => none

end Sys2Proof
end

