-- ==== Sys2Proof/Certificates/Slice0/Obligations.lean ====
section
/-! DEFINITION. The statements for the provers, each a rule of spec/ or a property the rules imply. A statement about
Execute(n) carries R227's premise c + n + 6 < 2^CYCLE_WIDTH, whatever it says of Execute, and one that gives a value of the
cycle counter the same premise for what it adds (`CounterFits`, `Command.InRange`, log 1). Conclusions are written
with the spec's own arithmetic (sums modulo 256 and 65536 on numbers), not with the model's resolvers. -/

open Sys2Proof Sys2Proof.Machine

/-! ### Encoding -/

/-- Words written out from R74 and R71, one or more for each family, decode to the instructions they stand for. -/
def Obligations.WordsDecodeAsTabled : Prop :=
  decode [0x00] = .ok (.brk, []) ∧
  decode [0xEA] = .ok (.nop, []) ∧
  decode [0xA9, 0x80] = .ok (.ldaImm 0x80, []) ∧
  decode [0xBD, 0xFE, 0x20] = .ok (.ldaAbsX 0x20FE, []) ∧
  decode [0xA1, 0xFE] = .ok (.ldaIndX 0xFE, []) ∧
  decode [0xB6, 0xFF] = .ok (.ldxZpY 0xFF, []) ∧
  decode [0xBE, 0xF0, 0xFF] = .ok (.ldxAbsY 0xFFF0, []) ∧
  decode [0xB4, 0x80] = .ok (.ldyZpX 0x80, []) ∧
  decode [0xAC, 0x00, 0x80] = .ok (.ldyAbs 0x8000, []) ∧
  decode [0x85, 0x10] = .ok (.undef 0x85, [0x10])

/-- Decoding the encoding of any well-formed instruction, at the head of any bytes, gives that instruction and the
bytes after it (R70, R71, R72, R74, R76). -/
def Obligations.DecodeOfEncode : Prop :=
  ∀ (i : Instr) (rest : List Byte), i.wellFormed = true → decode (encode i ++ rest) = .ok (i, rest)

/-- The other direction: whatever three bytes stand at PC, the instruction read from them is well-formed, and its
encoding is as many of those bytes, from the first, as it is long (R70, R77, R78). -/
def Obligations.EncodeOfDecode : Prop :=
  ∀ op b1 b2 : Byte,
    (decodeBytes op b1 b2).wellFormed = true ∧
    encode (decodeBytes op b1 b2) = [op, b1, b2].take (decodeBytes op b1 b2).length

/-- An opcode byte decodes to UNDEF exactly when it is none of the 20 of R74, and 236 bytes do (R76). -/
def Obligations.UndefinedOpcodes : Prop :=
  (∀ op b1 b2 : Byte, decodeBytes op b1 b2 = .undef op ↔
    op ∉ ([0x00, 0xEA, 0xA9, 0xA5, 0xB5, 0xAD, 0xBD, 0xB9, 0xA1, 0xB1, 0xA2, 0xA6, 0xB6, 0xAE, 0xBE,
           0xA0, 0xA4, 0xB4, 0xAC, 0xBC] : List Byte)) ∧
  ((List.range 256).filter fun k => decodeBytes (BitVec.ofNat 8 k) 0 0 = .undef (BitVec.ofNat 8 k)).length = 236

/-- The length depends on the opcode byte alone: 3 for the seven absolute forms, 2 for the eleven other loads, 1 for
BRK, NOP and every undefined opcode (R78). -/
def Obligations.LengthByOpcode : Prop :=
  ∀ op b1 b2 : Byte, (decodeBytes op b1 b2).length =
    if op ∈ ([0xAD, 0xBD, 0xB9, 0xAE, 0xBE, 0xAC, 0xBC] : List Byte) then 3
    else if op ∈ ([0xA9, 0xA5, 0xB5, 0xA1, 0xB1, 0xA2, 0xA6, 0xB6, 0xA0, 0xA4, 0xB4] : List Byte) then 2
    else 1

/-! ### The step -/

/-- When the bytes at PC decode to an instruction, a step runs exactly it, after the opcode fetch has moved PC past the
opcode byte and charged its cycle (R161). -/
def Obligations.StepRunsDecoded : Prop :=
  ∀ (s : State) (i : Instr) (rest : List Byte),
    decode [s.mem.read s.pc, s.mem.read (s.pc + 1), s.mem.read (s.pc + 2)] = .ok (i, rest) →
    step s = exec i { s with pc := s.pc + 1, cycles := s.cycles + 1 }

/-- The step is R161's pseudocode, in which each body fetches its own operand bytes from memory at PC, over the opcode
grid of R75 (R161, R162, R114). -/
def Obligations.StepAgreesWithPseudocode : Prop :=
  ∀ s : State, step s = .next (pseudocodeStep s)

/-- No state stops the machine: every instruction from every state, every step and every Execute, its count in
range as R227 asks, answers a next state (R200). -/
def Obligations.NothingFaults : Prop :=
  (∀ (i : Instr) (s : State), ∃ t, exec i s = .next t) ∧
  (∀ s : State, ∃ t, step s = .next t) ∧
  (∀ (n : Nat) (s : State), CounterFits s (n + 6) → ∃ t, execute n s = .next t)

/-! ### What each instruction does

Each statement has, for every instruction of one form, the body after the opcode fetch for every operand, and the whole
step when the instruction's bytes stand at PC. Opcode bytes other than 0xA9 are those R74 gives from the historical 6502
(the spec's decision D10, log 2). -/

/-- LDA #imm, LDX #imm, LDY #imm (R131, R139, R144; R104, R130). -/
def Obligations.LoadImmediate : Prop :=
  ∀ (s : State) (imm : Byte),
    (CounterFits s 1 → exec (.ldaImm imm) s = .next
      { s with a := imm, p := { s.p with z := decide (imm = 0x00), n := imm.getLsbD 7 },
               pc := s.pc + 1, cycles := s.cycles + 1 }) ∧
    (CounterFits s 1 → exec (.ldxImm imm) s = .next
      { s with x := imm, p := { s.p with z := decide (imm = 0x00), n := imm.getLsbD 7 },
               pc := s.pc + 1, cycles := s.cycles + 1 }) ∧
    (CounterFits s 1 → exec (.ldyImm imm) s = .next
      { s with y := imm, p := { s.p with z := decide (imm = 0x00), n := imm.getLsbD 7 },
               pc := s.pc + 1, cycles := s.cycles + 1 }) ∧
    (CounterFits s 2 → s.mem.read s.pc = 0xA9 → s.mem.read (s.pc + 1) = imm →
      step s = .next
        { s with a := imm, p := { s.p with z := decide (imm = 0x00), n := imm.getLsbD 7 },
                 pc := s.pc + 2, cycles := s.cycles + 2 }) ∧
    (CounterFits s 2 → s.mem.read s.pc = 0xA2 → s.mem.read (s.pc + 1) = imm →
      step s = .next
        { s with x := imm, p := { s.p with z := decide (imm = 0x00), n := imm.getLsbD 7 },
                 pc := s.pc + 2, cycles := s.cycles + 2 }) ∧
    (CounterFits s 2 → s.mem.read s.pc = 0xA0 → s.mem.read (s.pc + 1) = imm →
      step s = .next
        { s with y := imm, p := { s.p with z := decide (imm = 0x00), n := imm.getLsbD 7 },
                 pc := s.pc + 2, cycles := s.cycles + 2 })

/-- LDA zp, LDX zp, LDY zp (R132, R140, R145; R105, R114, R130). -/
def Obligations.LoadZeroPage : Prop :=
  ∀ (s : State) (zp : Byte),
    let v := s.mem.read (BitVec.ofNat 16 zp.toNat)
    (CounterFits s 2 → exec (.ldaZp zp) s = .next
      { s with a := v, p := { s.p with z := decide (v = 0x00), n := v.getLsbD 7 },
               pc := s.pc + 1, cycles := s.cycles + 2 }) ∧
    (CounterFits s 2 → exec (.ldxZp zp) s = .next
      { s with x := v, p := { s.p with z := decide (v = 0x00), n := v.getLsbD 7 },
               pc := s.pc + 1, cycles := s.cycles + 2 }) ∧
    (CounterFits s 2 → exec (.ldyZp zp) s = .next
      { s with y := v, p := { s.p with z := decide (v = 0x00), n := v.getLsbD 7 },
               pc := s.pc + 1, cycles := s.cycles + 2 }) ∧
    (CounterFits s 3 → s.mem.read s.pc = 0xA5 → s.mem.read (s.pc + 1) = zp →
      step s = .next
        { s with a := v, p := { s.p with z := decide (v = 0x00), n := v.getLsbD 7 },
                 pc := s.pc + 2, cycles := s.cycles + 3 }) ∧
    (CounterFits s 3 → s.mem.read s.pc = 0xA6 → s.mem.read (s.pc + 1) = zp →
      step s = .next
        { s with x := v, p := { s.p with z := decide (v = 0x00), n := v.getLsbD 7 },
                 pc := s.pc + 2, cycles := s.cycles + 3 }) ∧
    (CounterFits s 3 → s.mem.read s.pc = 0xA4 → s.mem.read (s.pc + 1) = zp →
      step s = .next
        { s with y := v, p := { s.p with z := decide (v = 0x00), n := v.getLsbD 7 },
                 pc := s.pc + 2, cycles := s.cycles + 3 })

/-- LDA zp,X and LDY zp,X: the address is (zp + X) mod 256 and the extra cycle is charged always
(R133, R146; R107, R114, R130). -/
def Obligations.LoadZeroPageX : Prop :=
  ∀ (s : State) (zp : Byte),
    let v := s.mem.read (BitVec.ofNat 16 ((zp.toNat + s.x.toNat) % 256))
    (CounterFits s 3 → exec (.ldaZpX zp) s = .next
      { s with a := v, p := { s.p with z := decide (v = 0x00), n := v.getLsbD 7 },
               pc := s.pc + 1, cycles := s.cycles + 3 }) ∧
    (CounterFits s 3 → exec (.ldyZpX zp) s = .next
      { s with y := v, p := { s.p with z := decide (v = 0x00), n := v.getLsbD 7 },
               pc := s.pc + 1, cycles := s.cycles + 3 }) ∧
    (CounterFits s 4 → s.mem.read s.pc = 0xB5 → s.mem.read (s.pc + 1) = zp →
      step s = .next
        { s with a := v, p := { s.p with z := decide (v = 0x00), n := v.getLsbD 7 },
                 pc := s.pc + 2, cycles := s.cycles + 4 }) ∧
    (CounterFits s 4 → s.mem.read s.pc = 0xB4 → s.mem.read (s.pc + 1) = zp →
      step s = .next
        { s with y := v, p := { s.p with z := decide (v = 0x00), n := v.getLsbD 7 },
                 pc := s.pc + 2, cycles := s.cycles + 4 })

/-- LDX zp,Y: the address is (zp + Y) mod 256 and the extra cycle is charged always (R141; R108, R114, R130). -/
def Obligations.LoadZeroPageY : Prop :=
  ∀ (s : State) (zp : Byte),
    let v := s.mem.read (BitVec.ofNat 16 ((zp.toNat + s.y.toNat) % 256))
    (CounterFits s 3 → exec (.ldxZpY zp) s = .next
      { s with x := v, p := { s.p with z := decide (v = 0x00), n := v.getLsbD 7 },
               pc := s.pc + 1, cycles := s.cycles + 3 }) ∧
    (CounterFits s 4 → s.mem.read s.pc = 0xB6 → s.mem.read (s.pc + 1) = zp →
      step s = .next
        { s with x := v, p := { s.p with z := decide (v = 0x00), n := v.getLsbD 7 },
                 pc := s.pc + 2, cycles := s.cycles + 4 })

/-- LDA abs, LDX abs, LDY abs (R134, R142, R147; R106, R114, R130). -/
def Obligations.LoadAbsolute : Prop :=
  ∀ (s : State) (addr : Word),
    let v := s.mem.read addr
    (CounterFits s 3 → exec (.ldaAbs addr) s = .next
      { s with a := v, p := { s.p with z := decide (v = 0x00), n := v.getLsbD 7 },
               pc := s.pc + 2, cycles := s.cycles + 3 }) ∧
    (CounterFits s 3 → exec (.ldxAbs addr) s = .next
      { s with x := v, p := { s.p with z := decide (v = 0x00), n := v.getLsbD 7 },
               pc := s.pc + 2, cycles := s.cycles + 3 }) ∧
    (CounterFits s 3 → exec (.ldyAbs addr) s = .next
      { s with y := v, p := { s.p with z := decide (v = 0x00), n := v.getLsbD 7 },
               pc := s.pc + 2, cycles := s.cycles + 3 }) ∧
    (CounterFits s 4 → s.mem.read s.pc = 0xAD → s.mem.read (s.pc + 1) = BitVec.ofNat 8 addr.toNat →
      s.mem.read (s.pc + 2) = BitVec.ofNat 8 (addr.toNat / 256) →
      step s = .next
        { s with a := v, p := { s.p with z := decide (v = 0x00), n := v.getLsbD 7 },
                 pc := s.pc + 3, cycles := s.cycles + 4 }) ∧
    (CounterFits s 4 → s.mem.read s.pc = 0xAE → s.mem.read (s.pc + 1) = BitVec.ofNat 8 addr.toNat →
      s.mem.read (s.pc + 2) = BitVec.ofNat 8 (addr.toNat / 256) →
      step s = .next
        { s with x := v, p := { s.p with z := decide (v = 0x00), n := v.getLsbD 7 },
                 pc := s.pc + 3, cycles := s.cycles + 4 }) ∧
    (CounterFits s 4 → s.mem.read s.pc = 0xAC → s.mem.read (s.pc + 1) = BitVec.ofNat 8 addr.toNat →
      s.mem.read (s.pc + 2) = BitVec.ofNat 8 (addr.toNat / 256) →
      step s = .next
        { s with y := v, p := { s.p with z := decide (v = 0x00), n := v.getLsbD 7 },
                 pc := s.pc + 3, cycles := s.cycles + 4 })

/-- LDA abs,X and LDY abs,X: the address is (addr + X) mod 65536, and one more cycle is charged when its high byte
differs from that of addr (R135, R148; R109, R113, R114, R130). -/
def Obligations.LoadAbsoluteX : Prop :=
  ∀ (s : State) (addr : Word),
    let ea := (addr.toNat + s.x.toNat) % 65536
    let v := s.mem.read (BitVec.ofNat 16 ea)
    let cross := if ea / 256 = addr.toNat / 256 then 0 else 1
    (CounterFits s 4 → exec (.ldaAbsX addr) s = .next
      { s with a := v, p := { s.p with z := decide (v = 0x00), n := v.getLsbD 7 },
               pc := s.pc + 2, cycles := s.cycles + 3 + cross }) ∧
    (CounterFits s 4 → exec (.ldyAbsX addr) s = .next
      { s with y := v, p := { s.p with z := decide (v = 0x00), n := v.getLsbD 7 },
               pc := s.pc + 2, cycles := s.cycles + 3 + cross }) ∧
    (CounterFits s 5 → s.mem.read s.pc = 0xBD → s.mem.read (s.pc + 1) = BitVec.ofNat 8 addr.toNat →
      s.mem.read (s.pc + 2) = BitVec.ofNat 8 (addr.toNat / 256) →
      step s = .next
        { s with a := v, p := { s.p with z := decide (v = 0x00), n := v.getLsbD 7 },
                 pc := s.pc + 3, cycles := s.cycles + 4 + cross }) ∧
    (CounterFits s 5 → s.mem.read s.pc = 0xBC → s.mem.read (s.pc + 1) = BitVec.ofNat 8 addr.toNat →
      s.mem.read (s.pc + 2) = BitVec.ofNat 8 (addr.toNat / 256) →
      step s = .next
        { s with y := v, p := { s.p with z := decide (v = 0x00), n := v.getLsbD 7 },
                 pc := s.pc + 3, cycles := s.cycles + 4 + cross })

/-- LDA abs,Y and LDX abs,Y: the address is (addr + Y) mod 65536, and one more cycle is charged when its high byte
differs from that of addr (R136, R143; R110, R113, R114, R130). -/
def Obligations.LoadAbsoluteY : Prop :=
  ∀ (s : State) (addr : Word),
    let ea := (addr.toNat + s.y.toNat) % 65536
    let v := s.mem.read (BitVec.ofNat 16 ea)
    let cross := if ea / 256 = addr.toNat / 256 then 0 else 1
    (CounterFits s 4 → exec (.ldaAbsY addr) s = .next
      { s with a := v, p := { s.p with z := decide (v = 0x00), n := v.getLsbD 7 },
               pc := s.pc + 2, cycles := s.cycles + 3 + cross }) ∧
    (CounterFits s 4 → exec (.ldxAbsY addr) s = .next
      { s with x := v, p := { s.p with z := decide (v = 0x00), n := v.getLsbD 7 },
               pc := s.pc + 2, cycles := s.cycles + 3 + cross }) ∧
    (CounterFits s 5 → s.mem.read s.pc = 0xB9 → s.mem.read (s.pc + 1) = BitVec.ofNat 8 addr.toNat →
      s.mem.read (s.pc + 2) = BitVec.ofNat 8 (addr.toNat / 256) →
      step s = .next
        { s with a := v, p := { s.p with z := decide (v = 0x00), n := v.getLsbD 7 },
                 pc := s.pc + 3, cycles := s.cycles + 4 + cross }) ∧
    (CounterFits s 5 → s.mem.read s.pc = 0xBE → s.mem.read (s.pc + 1) = BitVec.ofNat 8 addr.toNat →
      s.mem.read (s.pc + 2) = BitVec.ofNat 8 (addr.toNat / 256) →
      step s = .next
        { s with x := v, p := { s.p with z := decide (v = 0x00), n := v.getLsbD 7 },
                 pc := s.pc + 3, cycles := s.cycles + 4 + cross })

/-- LDA (ind,X): the pointer is at (zp + X) mod 256, its high byte at the next address modulo 256; six cycles always
(R137; R111, R114, R130). -/
def Obligations.LoadIndirectX : Prop :=
  ∀ (s : State) (zp : Byte),
    let ptr := (zp.toNat + s.x.toNat) % 256
    let ea := (s.mem.read (BitVec.ofNat 16 ((ptr + 1) % 256))).toNat * 256 + (s.mem.read (BitVec.ofNat 16 ptr)).toNat
    let v := s.mem.read (BitVec.ofNat 16 ea)
    (CounterFits s 5 → exec (.ldaIndX zp) s = .next
      { s with a := v, p := { s.p with z := decide (v = 0x00), n := v.getLsbD 7 },
               pc := s.pc + 1, cycles := s.cycles + 5 }) ∧
    (CounterFits s 6 → s.mem.read s.pc = 0xA1 → s.mem.read (s.pc + 1) = zp →
      step s = .next
        { s with a := v, p := { s.p with z := decide (v = 0x00), n := v.getLsbD 7 },
                 pc := s.pc + 2, cycles := s.cycles + 6 })

/-- LDA (ind),Y: the base is read through the pointer at zp, its high byte at (zp + 1) mod 256; Y is added modulo 65536,
with one more cycle when that changes the high byte (R138; R112, R113, R114, R130). -/
def Obligations.LoadIndirectY : Prop :=
  ∀ (s : State) (zp : Byte),
    let base := (s.mem.read (BitVec.ofNat 16 ((zp.toNat + 1) % 256))).toNat * 256 +
      (s.mem.read (BitVec.ofNat 16 zp.toNat)).toNat
    let ea := (base + s.y.toNat) % 65536
    let v := s.mem.read (BitVec.ofNat 16 ea)
    let cross := if ea / 256 = base / 256 then 0 else 1
    (CounterFits s 5 → exec (.ldaIndY zp) s = .next
      { s with a := v, p := { s.p with z := decide (v = 0x00), n := v.getLsbD 7 },
               pc := s.pc + 1, cycles := s.cycles + 4 + cross }) ∧
    (CounterFits s 6 → s.mem.read s.pc = 0xB1 → s.mem.read (s.pc + 1) = zp →
      step s = .next
        { s with a := v, p := { s.p with z := decide (v = 0x00), n := v.getLsbD 7 },
                 pc := s.pc + 2, cycles := s.cycles + 5 + cross })

/-- BRK: beyond the opcode fetch, 6 cycles and nothing else; PC moves past the opcode byte alone (R164). That BRK is one
byte long and has no further effect is the spec's own decision D5 (log 9). -/
def Obligations.BrkStub : Prop :=
  ∀ s : State,
    (CounterFits s 6 → exec .brk s = .next { s with cycles := s.cycles + 6 }) ∧
    (CounterFits s 7 → s.mem.read s.pc = 0x00 →
      step s = .next { s with pc := s.pc + 1, cycles := s.cycles + 7 })

/-- NOP charges 1 cycle beyond its fetch, and an undefined opcode, whatever its byte, nothing; neither changes anything
but PC and the count (R165, R166). -/
def Obligations.NopAndUndefined : Prop :=
  ∀ (s : State) (op : Byte),
    (CounterFits s 1 → exec .nop s = .next { s with cycles := s.cycles + 1 }) ∧
    exec (.undef op) s = .next s ∧
    (CounterFits s 2 → s.mem.read s.pc = 0xEA →
      step s = .next { s with pc := s.pc + 1, cycles := s.cycles + 2 }) ∧
    (CounterFits s 1 → (Instr.undef (s.mem.read s.pc)).wellFormed = true →
      step s = .next { s with pc := s.pc + 1, cycles := s.cycles + 1 })

/-! ### Registers, flags and frames -/

/-- SetLoad (R130): the register holds the value; Z is set exactly when it is 0x00 and N is its bit 7, in the three
ranges R130 lists; Z and N are never both 1; every other register, flag and field is unchanged, and no cycle is
charged. -/
def Obligations.SetLoad : Prop :=
  ∀ (s : State) (r : Reg) (v : Byte),
    (s.setLoad r v).reg r = v ∧
    (s.setLoad r v).p = { s.p with z := decide (v = 0x00), n := decide (128 ≤ v.toNat) } ∧
    (v = 0x00 → (s.setLoad r v).p.z = true ∧ (s.setLoad r v).p.n = false) ∧
    (128 ≤ v.toNat → (s.setLoad r v).p.z = false ∧ (s.setLoad r v).p.n = true) ∧
    (1 ≤ v.toNat → v.toNat ≤ 127 → (s.setLoad r v).p.z = false ∧ (s.setLoad r v).p.n = false) ∧
    ¬ ((s.setLoad r v).p.z = true ∧ (s.setLoad r v).p.n = true) ∧
    (∀ q, q ≠ r → (s.setLoad r v).reg q = s.reg q) ∧
    (s.setLoad r v).pc = s.pc ∧ (s.setLoad r v).sp = s.sp ∧ (s.setLoad r v).cycles = s.cycles ∧
    (s.setLoad r v).target = s.target ∧ (s.setLoad r v).mem = s.mem

/-- The frame of every load (R22 to R25, R28, R58, R130): besides its destination register, Z, N, PC and the cycle
counter, nothing changes; a load stores nothing, so every byte of memory reads as before. -/
def Obligations.LoadFrame : Prop :=
  ∀ (i : Instr) (r : Reg) (s t : State), i.dest = some r → exec i s = .next t →
    (∀ q, q ≠ r → t.reg q = s.reg q) ∧ t.sp = s.sp ∧ t.target = s.target ∧
    (∀ f, f ≠ .z → f ≠ .n → t.p.get f = s.p.get f) ∧
    t.p.z = decide (t.reg r = 0x00) ∧ t.p.n = (t.reg r).getLsbD 7 ∧
    (∀ addr, t.mem.read addr = s.mem.read addr)

/-- The frame of BRK, NOP and UNDEF (R164, R165, R166): nothing but the cycle counter changes, PC included, for the
opcode fetch has moved it already; every byte of memory reads as before. -/
def Obligations.ControlFrame : Prop :=
  ∀ (i : Instr) (s t : State), i.dest = none → exec i s = .next t →
    (∀ q, t.reg q = s.reg q) ∧ t.sp = s.sp ∧ t.pc = s.pc ∧ t.target = s.target ∧
    (∀ f, t.p.get f = s.p.get f) ∧ (∀ addr, t.mem.read addr = s.mem.read addr)

/-- Only LDA writes A, only LDX writes X, only LDY writes Y (R21, R22, R23): a data register that a step changes is the
destination of the instruction at PC. -/
def Obligations.OnlyItsLoadWritesARegister : Prop :=
  ∀ (s t : State) (r : Reg) (i : Instr) (rest : List Byte), step s = .next t →
    decode [s.mem.read s.pc, s.mem.read (s.pc + 1), s.mem.read (s.pc + 2)] = .ok (i, rest) →
    t.reg r ≠ s.reg r → i.dest = some r

/-- No Execute, whatever its budget, changes SP, a flag other than Z and N, or a byte of memory (R25, R28, R29, R31 to
R35, R58), its count in range as R227 asks. -/
def Obligations.ExecuteFrame : Prop :=
  ∀ (n : Nat) (s t : State), CounterFits s (n + 6) → execute n s = .next t →
    t.sp = s.sp ∧ (∀ f, f ≠ .z → f ≠ .n → t.p.get f = s.p.get f) ∧ (∀ addr, t.mem.read addr = s.mem.read addr)

/-- No instruction reads A, SP or a flag, and none depends on the count (R21, R25, R29 to R36, R162): from two states
that agree on PC, X, Y and memory, a step fetches the same instruction, moves PC alike, costs the same, leaves X and Y
alike, and gives the register it loads, and Z and N with it, the same value. -/
def Obligations.StepReadsOnlyPcXYAndMemory : Prop :=
  ∀ (s t s' t' : State), s.pc = s'.pc → s.x = s'.x → s.y = s'.y → s.mem = s'.mem →
    CounterFits s 7 → CounterFits s' 7 → step s = .next t → step s' = .next t' →
    instrAt s = instrAt s' ∧ t.pc = t'.pc ∧ t.x = t'.x ∧ t.y = t'.y ∧ t.mem = t'.mem ∧
    t.cycles - s.cycles = t'.cycles - s'.cycles ∧
    (∀ r, (instrAt s).dest = some r → t.reg r = t'.reg r ∧ t.p.z = t'.p.z ∧ t.p.n = t'.p.n)

/-! ### PC and cycles -/

/-- PC at the two points of an instruction that starts at p0 (R27): after the opcode fetch it is p0 + 1, and after the
instruction p0 + L, both modulo 65536, L its length. -/
def Obligations.PcAdvance : Prop :=
  ∀ s : State, (fetchInstr s).2.pc.toNat = (s.pc.toNat + 1) % 65536 ∧
    ∃ t, step s = .next t ∧ t.pc.toNat = (s.pc.toNat + (instrAt s).length) % 65536

/-- Every step costs exactly what R228's table documents for the instruction at PC, one more where the table says "+p"
and the addition of the index changes the base's high byte. -/
def Obligations.StepCost : Prop :=
  ∀ s : State, CounterFits s 7 →
    ∃ t, step s = .next t ∧ t.cycles = s.cycles + (instrAt s).documentedCycles s

/-- `FetchByte()` (R100) and `ReadByteAndTick(addr)` (R102): result, PC and charge. -/
def Obligations.FetchByteAndRead : Prop :=
  ∀ (s : State) (addr : Word), CounterFits s 1 →
    s.fetchByte = (s.mem.read s.pc, { s with pc := s.pc + 1, cycles := s.cycles + 1 }) ∧
    s.readByteAndTick addr = (s.mem.read addr, { s with cycles := s.cycles + 1 })

/-- `FetchWord()` (R101): result, PC and charge, the same as two byte fetches composed little-endian, at every PC; and
`Penalty()` (R103), which reads nothing (D13, log 16). -/
def Obligations.FetchWordAndPenalty : Prop :=
  ∀ s : State, CounterFits s 2 →
    s.fetchWord.1.toNat = (s.mem.read (s.pc + 1)).toNat * 256 + (s.mem.read s.pc).toNat ∧
    s.fetchWord.2 = { s with pc := s.pc + 2, cycles := s.cycles + 2 } ∧
    s.fetchWord = (concat s.fetchByte.2.fetchByte.1 s.fetchByte.1, s.fetchByte.2.fetchByte.2) ∧
    s.penalty = { s with cycles := s.cycles + 1 }

/-- PageCross (R113): true exactly when the high bytes differ; a sum past 0xFFFF lands in page 0 and is a cross; an
index of 0 never crosses; 0xFFF0 + 0x20 = 0x0010 crosses. -/
def Obligations.PageCross : Prop :=
  (∀ base ea : Word, pageCross base ea = true ↔ base.toNat / 256 ≠ ea.toNat / 256) ∧
  (∀ (base : Word) (index : Byte), 65536 ≤ base.toNat + index.toNat →
    (base + zext16 index).toNat / 256 = 0 ∧ pageCross base (base + zext16 index) = true) ∧
  (∀ base : Word, pageCross base (base + zext16 0x00) = false) ∧
  (0xFFF0 : Word) + zext16 0x20 = 0x0010 ∧ pageCross 0xFFF0 0x0010 = true

/-! ### Execute -/

/-- What Execute(n) consumes, n at least 1 (R160, R163). With the target c + n set, it is a run of m steps, 1 ≤ m ≤ n, m
the least number after which the count has reached the target; the target is gone when it returns. The count reached is
at most what the last step costs, less one, past the target, and so at most 6 past it. -/
def Obligations.ExecuteMeetsItsBudget : Prop :=
  ∀ (n : Nat) (s : State), 1 ≤ n → CounterFits s (n + 6) →
    ∃ (m : Nat) (u t : State), 1 ≤ m ∧ m ≤ n ∧
      Host.Core.run core m { s with target := some (s.cycles + n) } = .next t ∧
      execute n s = .next { t with target := none } ∧
      (∀ (k : Nat) (w : State), k < m →
        Host.Core.run core k { s with target := some (s.cycles + n) } = .next w → w.cycles < s.cycles + n) ∧
      Host.Core.run core (m - 1) { s with target := some (s.cycles + n) } = .next u ∧ step u = .next t ∧
      s.cycles + n ≤ t.cycles ∧ t.cycles ≤ s.cycles + n + (t.cycles - u.cycles) - 1 ∧ t.cycles ≤ s.cycles + n + 6

/-- Cycle exactness (R170): Execute(N), N the documented cost of the instruction at PC, consumes exactly N cycles and
advances PC by exactly the instruction's byte length; it runs that one instruction. -/
def Obligations.CycleExactness : Prop :=
  ∀ s : State, CounterFits s 13 →
    ∃ t, step s = .next t ∧ execute ((instrAt s).documentedCycles s) s = .next { t with target := none } ∧
      t.cycles = s.cycles + (instrAt s).documentedCycles s ∧
      t.pc = s.pc + BitVec.ofNat 16 (instrAt s).length

/-- Execute(1), between commands, runs exactly one instruction (R210, R163). -/
def Obligations.ExecuteOneIsOneStep : Prop :=
  ∀ s : State, s.target = none → CounterFits s 7 → execute 1 s = step s

/-- Execute(0) runs no instruction and changes nothing. The spec's source does not place the first test: this is the
spec's own decision D2, the model's log 5, and not a rule of the source. -/
def Obligations.ExecuteZeroRunsNothing : Prop :=
  ∀ s : State, s.target = none → CounterFits s (0 + 6) → execute 0 s = .next s

/-- The counter is monotonic (R38): every step raises it, and no command but construction lowers it, the host
keeping its duty to hold it in range (R227). -/
def Obligations.CyclesMonotonic : Prop :=
  (∀ s t : State, CounterFits s 7 → step s = .next t → s.cycles < t.cycles) ∧
  (∀ (c : Command) (s t : State), (∀ memory, c ≠ .construct memory) → c.InRange s →
    runCommand c s = .next t → s.cycles ≤ t.cycles)

/-! ### Memory -/

/-- A word read is two byte reads composed little-endian, the second address modulo 65536 (R54). -/
def Obligations.ReadWordLittleEndian : Prop :=
  (∀ (m : Memory) (addr : Word), (m.readWord addr).toNat =
    (m.read (BitVec.ofNat 16 ((addr.toNat + 1) % 65536))).toNat * 256 + (m.read addr).toNat) ∧
  (∀ m : Memory, (m.readWord 0xFFFF).toNat = (m.read 0x0000).toNat * 256 + (m.read 0xFFFF).toNat)

/-- A byte write stores one byte and nothing else changes (R53). -/
def Obligations.WriteByteThenRead : Prop :=
  ∀ (m : Memory) (addr b : Word) (v : Byte), m.wf = true →
    (m.write addr v).read b = if b = addr then v else m.read b

/-- A word write stores its low byte at the address and its high byte at the next modulo 65536; reading the word back
gives it, at 0xFFFF too, and every other byte is unchanged; only the host issues it, for no step changes memory (R55). -/
def Obligations.WriteWordThenRead : Prop :=
  ∀ (m : Memory) (addr v : Word), m.wf = true →
    (m.writeWord addr v).readWord addr = v ∧
    ((m.writeWord addr v).read addr).toNat = v.toNat % 256 ∧
    ((m.writeWord addr v).read (BitVec.ofNat 16 ((addr.toNat + 1) % 65536))).toNat = v.toNat / 256 ∧
    (∀ b, b ≠ addr → b ≠ addr + 1 → (m.writeWord addr v).read b = m.read b) ∧
    (∀ s t : State, step s = .next t → t.mem = s.mem)

/-- Canonical memories that read the same at every address are the same data. -/
def Obligations.CanonicalMemoryUnique : Prop :=
  ∀ m m' : Memory, m.wf = true → m'.wf = true → (∀ addr, m.read addr = m'.read addr) → m = m'

/-! ### Construct, Reset and the host -/

/-- Construct binds the memory and sets every field (R220). -/
def Obligations.ConstructState : Prop :=
  ∀ memory : Memory, construct memory =
    { pc := 0x0000, sp := 0x00, a := 0x00, x := 0x00, y := 0x00,
      p := { c := false, z := false, i := false, d := false, b := false, u := true, v := false, n := false },
      cycles := 0, target := none, mem := memory }

/-- Reset (R221, R223), from any state: SP, I, U, PC from the vector, 6 cycles; A, X, Y and memory unchanged. That it also
clears C, Z, D, B, V and N is a choice between two readings of the source, the spec's in 90_conflicts.md C1 and the model's
in log 10 (DESIGN CHOICE). -/
def Obligations.ResetCommand : Prop :=
  ∀ s : State, CounterFits s 6 → resetCommand s =
    { s with sp := 0xFD,
             p := { c := false, z := false, i := true, d := false, b := false, u := true, v := false, n := false },
             pc := BitVec.ofNat 16 ((s.mem.read 0xFFFD).toNat * 256 + (s.mem.read 0xFFFC).toNat),
             cycles := s.cycles + 6 }

/-- Reset is callable any number of times (R222): two in a row leave the state of one but for the count, which has grown
by 12; and each call reads the vector anew, so that a Reset after the host changes it restarts at the new address. -/
def Obligations.ResetAgain : Prop :=
  ∀ (s : State) (vector : Word),
    (CounterFits s 12 →
      resetCommand (resetCommand s) = { resetCommand s with cycles := s.cycles + 12 }) ∧
    (s.mem.wf = true → (resetCommand (hostWriteWord 0xFFFC vector s)).pc = vector)

/-- The state after reset is Construct on a Memory of zeros and then Reset (R40, R51, R224), with PC at the address the
vector then holds. That the vector bytes are still zero is the model's choice of launch (log 11). -/
def Obligations.ResetStateIsConstructThenReset : Prop :=
  runCommand .reset (construct []) = .next State.reset ∧ State.reset.pc = 0x0000 ∧ State.reset.sp = 0xFD ∧
  State.reset.cycles = 6 ∧ (∀ addr, State.reset.mem.read addr = 0x00)

/-- The host sets any flag but U, and a write of U leaves it as it is; every other flag and every other field is
unchanged (R42). That the host has these writes is the spec's decision D4 (log 18). -/
def Obligations.HostFlagWrite : Prop :=
  ∀ (f : Flag) (value : Bool) (s : State),
    (f ≠ .u → (hostSetFlag f value s).p.get f = value) ∧
    (∀ g, g ≠ f ∨ g = .u → (hostSetFlag f value s).p.get g = s.p.get g) ∧
    { hostSetFlag f value s with p := s.p } = s

/-- U is 1 after Construct and after Reset, and every step and every move of the host keeps it 1 (R34). That a host
write of U is discarded is the spec's decision D4 (log 18). The host keeps the count in range (R227). -/
def Obligations.UnusedFlagStaysOne : Prop :=
  (∀ memory, (construct memory).p.u = true) ∧ (∀ s, (resetCommand s).p.u = true) ∧
  (∀ s t : State, s.p.u = true → step s = .next t → t.p.u = true) ∧
  (∀ (c : Command) (s t : State), s.p.u = true → c.InRange s → runCommand c s = .next t → t.p.u = true)

/-- Every move of the host completes, from every state whose count the move keeps in range (R227), and between commands
no Execute target is left (R11, R41). -/
def Obligations.CommandsComplete : Prop :=
  ∀ (c : Command) (s : State), c.InRange s → ∃ t, runCommand c s = .next t ∧ (s.target = none → t.target = none)

/-! ### The invariant -/

/-- The state after reset, and the state after Construct on any canonical memory, meet the invariant. -/
def Obligations.InvAtReset : Prop :=
  State.reset.Inv ∧ ∀ memory : Memory, memory.wf = true → (construct memory).Inv

/-- Every step, from every state that meets the invariant, gives a state that meets it. -/
def Obligations.StepKeepsInv : Prop :=
  ∀ s t : State, s.Inv → step s = .next t → t.Inv

/-- Every move of the host keeps the invariant: the two memory writes, the flag write, Reset, and Execute of any
budget with the count in range (R227); Construct gives it on a canonical memory. -/
def Obligations.CommandsKeepInv : Prop :=
  ∀ (c : Command) (s t : State), s.Inv → c.Canonical → c.InRange s → runCommand c s = .next t → t.Inv
end

