-- ==== Sys2Proof/Laws/Decode.lean ====
section
/-! SUPPORT. The opcode table is unambiguous, and the few facts of bytes and words the decoder's proofs need. -/

namespace Sys2Proof

/-- No two rows of the table share an opcode byte. -/
theorem opcodeTable_unambiguous : opcodeTable.Pairwise fun r q => r.opcode ≠ q.opcode := by decide

theorem opcodeTable_has_20_rows : opcodeTable.length = 20 := rfl

theorem toNat_concat (h l : Byte) : (concat h l).toNat = h.toNat * 256 + l.toNat := by
  simp only [concat, BitVec.toNat_append]
  rw [← Nat.shiftLeft_add_eq_or_of_lt l.isLt, Nat.shiftLeft_eq]

theorem toNat_hiByte (w : Word) : (hiByte w).toNat = w.toNat / 256 := by
  have := w.isLt
  simp only [hiByte, BitVec.extractLsb'_toNat, Nat.shiftRight_eq_div_pow]
  omega

theorem toNat_loByte (w : Word) : (loByte w).toNat = w.toNat % 256 := by
  simp only [loByte, BitVec.extractLsb'_toNat, Nat.shiftRight_zero]

@[simp] theorem hiByte_concat (h l : Byte) : hiByte (concat h l) = h := by
  apply BitVec.eq_of_toNat_eq
  rw [toNat_hiByte, toNat_concat]
  omega

@[simp] theorem loByte_concat (h l : Byte) : loByte (concat h l) = l := by
  apply BitVec.eq_of_toNat_eq
  rw [toNat_loByte, toNat_concat]
  omega

/-- A word is its two bytes. -/
@[simp] theorem concat_hiByte_loByte (w : Word) : concat (hiByte w) (loByte w) = w := by
  apply BitVec.eq_of_toNat_eq
  rw [toNat_concat, toNat_hiByte, toNat_loByte]
  omega

theorem toNat_zext16 (b : Byte) : (zext16 b).toNat = b.toNat := by
  have := b.isLt
  simp only [zext16, BitVec.toNat_setWidth, BitVec.truncate_eq_setWidth]
  omega

/-- The two ways a byte decodes: by its row of the table, or as UNDEF. -/
theorem decodeBytes_cases (op b1 b2 : Byte) :
    (∃ r ∈ opcodeTable, r.opcode = op ∧ opcodeRow op = some r ∧ decodeBytes op b1 b2 = r.build b1 b2) ∨
    (opcodeRow op = none ∧ decodeBytes op b1 b2 = .undef op) := by
  unfold decodeBytes
  cases h : opcodeRow op with
  | none => exact .inr ⟨rfl, rfl⟩
  | some r =>
    exact .inl ⟨r, List.mem_of_find?_eq_some h, by simpa using List.find?_some h, rfl, rfl⟩

end Sys2Proof
end

