-- ==== Sys2Proof/Laws/State.lean ====
section
/-! SUPPORT. What each update of State does to each field, so that no proof unfolds a record update. -/

namespace Sys2Proof.Machine

/-! ### tick -/

@[simp] theorem tick_pc (s : State) (n : Nat) : (s.tick n).pc = s.pc := rfl
@[simp] theorem tick_sp (s : State) (n : Nat) : (s.tick n).sp = s.sp := rfl
@[simp] theorem tick_a (s : State) (n : Nat) : (s.tick n).a = s.a := rfl
@[simp] theorem tick_x (s : State) (n : Nat) : (s.tick n).x = s.x := rfl
@[simp] theorem tick_y (s : State) (n : Nat) : (s.tick n).y = s.y := rfl
@[simp] theorem tick_p (s : State) (n : Nat) : (s.tick n).p = s.p := rfl
@[simp] theorem tick_cycles (s : State) (n : Nat) : (s.tick n).cycles = s.cycles + n := rfl
@[simp] theorem tick_target (s : State) (n : Nat) : (s.tick n).target = s.target := rfl
@[simp] theorem tick_mem (s : State) (n : Nat) : (s.tick n).mem = s.mem := rfl

/-! ### consumeByte -/

@[simp] theorem consumeByte_pc (s : State) (b : Byte) : ((s.consumeByte b).2).pc = s.pc + 1 := rfl
@[simp] theorem consumeByte_sp (s : State) (b : Byte) : ((s.consumeByte b).2).sp = s.sp := rfl
@[simp] theorem consumeByte_a (s : State) (b : Byte) : ((s.consumeByte b).2).a = s.a := rfl
@[simp] theorem consumeByte_x (s : State) (b : Byte) : ((s.consumeByte b).2).x = s.x := rfl
@[simp] theorem consumeByte_y (s : State) (b : Byte) : ((s.consumeByte b).2).y = s.y := rfl
@[simp] theorem consumeByte_p (s : State) (b : Byte) : ((s.consumeByte b).2).p = s.p := rfl
@[simp] theorem consumeByte_cycles (s : State) (b : Byte) : ((s.consumeByte b).2).cycles = s.cycles + Params.byteCycles := rfl
@[simp] theorem consumeByte_target (s : State) (b : Byte) : ((s.consumeByte b).2).target = s.target := rfl
@[simp] theorem consumeByte_mem (s : State) (b : Byte) : ((s.consumeByte b).2).mem = s.mem := rfl

@[simp] theorem consumeByte_value (s : State) (b : Byte) : (s.consumeByte b).1 = b := rfl

/-! ### consumeWord -/

@[simp] theorem consumeWord_pc (s : State) (w : Word) : ((s.consumeWord w).2).pc = s.pc + 2 := rfl
@[simp] theorem consumeWord_sp (s : State) (w : Word) : ((s.consumeWord w).2).sp = s.sp := rfl
@[simp] theorem consumeWord_a (s : State) (w : Word) : ((s.consumeWord w).2).a = s.a := rfl
@[simp] theorem consumeWord_x (s : State) (w : Word) : ((s.consumeWord w).2).x = s.x := rfl
@[simp] theorem consumeWord_y (s : State) (w : Word) : ((s.consumeWord w).2).y = s.y := rfl
@[simp] theorem consumeWord_p (s : State) (w : Word) : ((s.consumeWord w).2).p = s.p := rfl
@[simp] theorem consumeWord_cycles (s : State) (w : Word) : ((s.consumeWord w).2).cycles = s.cycles + Params.wordCycles := rfl
@[simp] theorem consumeWord_target (s : State) (w : Word) : ((s.consumeWord w).2).target = s.target := rfl
@[simp] theorem consumeWord_mem (s : State) (w : Word) : ((s.consumeWord w).2).mem = s.mem := rfl

@[simp] theorem consumeWord_value (s : State) (w : Word) : (s.consumeWord w).1 = w := rfl

/-! ### readByteAndTick -/

@[simp] theorem readByteAndTick_pc (s : State) (addr : Word) : ((s.readByteAndTick addr).2).pc = s.pc := rfl
@[simp] theorem readByteAndTick_sp (s : State) (addr : Word) : ((s.readByteAndTick addr).2).sp = s.sp := rfl
@[simp] theorem readByteAndTick_a (s : State) (addr : Word) : ((s.readByteAndTick addr).2).a = s.a := rfl
@[simp] theorem readByteAndTick_x (s : State) (addr : Word) : ((s.readByteAndTick addr).2).x = s.x := rfl
@[simp] theorem readByteAndTick_y (s : State) (addr : Word) : ((s.readByteAndTick addr).2).y = s.y := rfl
@[simp] theorem readByteAndTick_p (s : State) (addr : Word) : ((s.readByteAndTick addr).2).p = s.p := rfl
@[simp] theorem readByteAndTick_cycles (s : State) (addr : Word) : ((s.readByteAndTick addr).2).cycles = s.cycles + Params.byteCycles := rfl
@[simp] theorem readByteAndTick_target (s : State) (addr : Word) : ((s.readByteAndTick addr).2).target = s.target := rfl
@[simp] theorem readByteAndTick_mem (s : State) (addr : Word) : ((s.readByteAndTick addr).2).mem = s.mem := rfl

@[simp] theorem readByteAndTick_value (s : State) (addr : Word) :
    (s.readByteAndTick addr).1 = s.mem.read addr := rfl

/-! ### penalty -/

@[simp] theorem penalty_pc (s : State) : (s.penalty).pc = s.pc := rfl
@[simp] theorem penalty_sp (s : State) : (s.penalty).sp = s.sp := rfl
@[simp] theorem penalty_a (s : State) : (s.penalty).a = s.a := rfl
@[simp] theorem penalty_x (s : State) : (s.penalty).x = s.x := rfl
@[simp] theorem penalty_y (s : State) : (s.penalty).y = s.y := rfl
@[simp] theorem penalty_p (s : State) : (s.penalty).p = s.p := rfl
@[simp] theorem penalty_cycles (s : State) : (s.penalty).cycles = s.cycles + Params.penaltyCycles := rfl
@[simp] theorem penalty_target (s : State) : (s.penalty).target = s.target := rfl
@[simp] theorem penalty_mem (s : State) : (s.penalty).mem = s.mem := rfl

/-! ### penaltyIf -/

@[simp] theorem penaltyIf_pc (s : State) (c : Bool) : (s.penaltyIf c).pc = s.pc := by
  cases c <;> rfl
@[simp] theorem penaltyIf_sp (s : State) (c : Bool) : (s.penaltyIf c).sp = s.sp := by
  cases c <;> rfl
@[simp] theorem penaltyIf_a (s : State) (c : Bool) : (s.penaltyIf c).a = s.a := by
  cases c <;> rfl
@[simp] theorem penaltyIf_x (s : State) (c : Bool) : (s.penaltyIf c).x = s.x := by
  cases c <;> rfl
@[simp] theorem penaltyIf_y (s : State) (c : Bool) : (s.penaltyIf c).y = s.y := by
  cases c <;> rfl
@[simp] theorem penaltyIf_p (s : State) (c : Bool) : (s.penaltyIf c).p = s.p := by
  cases c <;> rfl
@[simp] theorem penaltyIf_cycles (s : State) (c : Bool) : (s.penaltyIf c).cycles = s.cycles + (if c then Params.penaltyCycles else 0) := by
  cases c <;> rfl
@[simp] theorem penaltyIf_target (s : State) (c : Bool) : (s.penaltyIf c).target = s.target := by
  cases c <;> rfl
@[simp] theorem penaltyIf_mem (s : State) (c : Bool) : (s.penaltyIf c).mem = s.mem := by
  cases c <;> rfl

/-! ### setReg and setLoad -/

@[simp] theorem setReg_reg_same (s : State) (r : Reg) (v : Byte) : (s.setReg r v).reg r = v := by
  cases r <;> rfl
theorem setReg_reg_other (s : State) (v : Byte) : ∀ (r q : Reg), q ≠ r → (s.setReg r v).reg q = s.reg q
  | .a, .a, h | .x, .x, h | .y, .y, h => absurd rfl h
  | .a, .x, _ | .a, .y, _ | .x, .a, _ | .x, .y, _ | .y, .a, _ | .y, .x, _ => rfl
@[simp] theorem setReg_pc (s : State) (r : Reg) (v : Byte) : (s.setReg r v).pc = s.pc := by
  cases r <;> rfl
@[simp] theorem setReg_sp (s : State) (r : Reg) (v : Byte) : (s.setReg r v).sp = s.sp := by
  cases r <;> rfl
@[simp] theorem setReg_p (s : State) (r : Reg) (v : Byte) : (s.setReg r v).p = s.p := by
  cases r <;> rfl
@[simp] theorem setReg_cycles (s : State) (r : Reg) (v : Byte) : (s.setReg r v).cycles = s.cycles := by
  cases r <;> rfl
@[simp] theorem setReg_target (s : State) (r : Reg) (v : Byte) : (s.setReg r v).target = s.target := by
  cases r <;> rfl
@[simp] theorem setReg_mem (s : State) (r : Reg) (v : Byte) : (s.setReg r v).mem = s.mem := by
  cases r <;> rfl

@[simp] theorem setLoad_reg_same (s : State) (r : Reg) (v : Byte) : (s.setLoad r v).reg r = v := by
  cases r <;> rfl
theorem setLoad_reg_other (s : State) (v : Byte) (r q : Reg) (h : q ≠ r) :
    (s.setLoad r v).reg q = s.reg q :=
  (by cases q <;> rfl : (s.setLoad r v).reg q = (s.setReg r v).reg q).trans (setReg_reg_other s v r q h)
@[simp] theorem setLoad_p (s : State) (r : Reg) (v : Byte) : (s.setLoad r v).p = s.p.loaded v := rfl
@[simp] theorem setLoad_pc (s : State) (r : Reg) (v : Byte) : (s.setLoad r v).pc = s.pc := by
  cases r <;> rfl
@[simp] theorem setLoad_sp (s : State) (r : Reg) (v : Byte) : (s.setLoad r v).sp = s.sp := by
  cases r <;> rfl
@[simp] theorem setLoad_cycles (s : State) (r : Reg) (v : Byte) : (s.setLoad r v).cycles = s.cycles := by
  cases r <;> rfl
@[simp] theorem setLoad_target (s : State) (r : Reg) (v : Byte) : (s.setLoad r v).target = s.target := by
  cases r <;> rfl
@[simp] theorem setLoad_mem (s : State) (r : Reg) (v : Byte) : (s.setLoad r v).mem = s.mem := by
  cases r <;> rfl

/-! ### Flags -/

@[simp] theorem loaded_c (p : Flags) (v : Byte) : (p.loaded v).c = p.c := rfl
@[simp] theorem loaded_z (p : Flags) (v : Byte) : (p.loaded v).z = zeroFlag v := rfl
@[simp] theorem loaded_i (p : Flags) (v : Byte) : (p.loaded v).i = p.i := rfl
@[simp] theorem loaded_d (p : Flags) (v : Byte) : (p.loaded v).d = p.d := rfl
@[simp] theorem loaded_b (p : Flags) (v : Byte) : (p.loaded v).b = p.b := rfl
@[simp] theorem loaded_u (p : Flags) (v : Byte) : (p.loaded v).u = p.u := rfl
@[simp] theorem loaded_v (p : Flags) (v : Byte) : (p.loaded v).v = p.v := rfl
@[simp] theorem loaded_n (p : Flags) (v : Byte) : (p.loaded v).n = negativeFlag v := rfl

@[simp] theorem set_u (p : Flags) (f : Flag) (v : Bool) : (p.set f v).u = p.u := by cases f <;> rfl

/-- Reading back the flag written, U apart. -/
theorem get_set_same (p : Flags) (f : Flag) (v : Bool) (h : f ≠ .u) : (p.set f v).get f = v := by
  cases f <;> first | rfl | exact absurd rfl h

/-- A flag write leaves every other flag alone. -/
theorem get_set_other (p : Flags) (v : Bool) (f g : Flag) (h : g ≠ f) : (p.set f v).get g = p.get g := by
  cases f <;> cases g <;> first | rfl | exact absurd rfl h

/-! ### The host's updates -/

/-! ### resetCommand -/

@[simp] theorem resetCommand_pc (s : State) : (resetCommand s).pc = resetVector s.mem := rfl
@[simp] theorem resetCommand_sp (s : State) : (resetCommand s).sp = Params.resetSp := rfl
@[simp] theorem resetCommand_a (s : State) : (resetCommand s).a = s.a := rfl
@[simp] theorem resetCommand_x (s : State) : (resetCommand s).x = s.x := rfl
@[simp] theorem resetCommand_y (s : State) : (resetCommand s).y = s.y := rfl
@[simp] theorem resetCommand_p (s : State) : (resetCommand s).p = Flags.afterReset := rfl
@[simp] theorem resetCommand_cycles (s : State) : (resetCommand s).cycles = s.cycles + Params.resetCycles := rfl
@[simp] theorem resetCommand_target (s : State) : (resetCommand s).target = s.target := rfl
@[simp] theorem resetCommand_mem (s : State) : (resetCommand s).mem = s.mem := rfl

/-! ### beginExecute -/

@[simp] theorem beginExecute_pc (n : Nat) (s : State) : (beginExecute n s).pc = s.pc := rfl
@[simp] theorem beginExecute_sp (n : Nat) (s : State) : (beginExecute n s).sp = s.sp := rfl
@[simp] theorem beginExecute_a (n : Nat) (s : State) : (beginExecute n s).a = s.a := rfl
@[simp] theorem beginExecute_x (n : Nat) (s : State) : (beginExecute n s).x = s.x := rfl
@[simp] theorem beginExecute_y (n : Nat) (s : State) : (beginExecute n s).y = s.y := rfl
@[simp] theorem beginExecute_p (n : Nat) (s : State) : (beginExecute n s).p = s.p := rfl
@[simp] theorem beginExecute_cycles (n : Nat) (s : State) : (beginExecute n s).cycles = s.cycles := rfl
@[simp] theorem beginExecute_target (n : Nat) (s : State) : (beginExecute n s).target = some (s.cycles + n) := rfl
@[simp] theorem beginExecute_mem (n : Nat) (s : State) : (beginExecute n s).mem = s.mem := rfl

/-! ### endExecute -/

@[simp] theorem endExecute_pc (s : State) : (endExecute s).pc = s.pc := rfl
@[simp] theorem endExecute_sp (s : State) : (endExecute s).sp = s.sp := rfl
@[simp] theorem endExecute_a (s : State) : (endExecute s).a = s.a := rfl
@[simp] theorem endExecute_x (s : State) : (endExecute s).x = s.x := rfl
@[simp] theorem endExecute_y (s : State) : (endExecute s).y = s.y := rfl
@[simp] theorem endExecute_p (s : State) : (endExecute s).p = s.p := rfl
@[simp] theorem endExecute_cycles (s : State) : (endExecute s).cycles = s.cycles := rfl
@[simp] theorem endExecute_target (s : State) : (endExecute s).target = none := rfl
@[simp] theorem endExecute_mem (s : State) : (endExecute s).mem = s.mem := rfl

/-! ### hostSetFlag -/

@[simp] theorem hostSetFlag_pc (f : Flag) (v : Bool) (s : State) : (hostSetFlag f v s).pc = s.pc := rfl
@[simp] theorem hostSetFlag_sp (f : Flag) (v : Bool) (s : State) : (hostSetFlag f v s).sp = s.sp := rfl
@[simp] theorem hostSetFlag_a (f : Flag) (v : Bool) (s : State) : (hostSetFlag f v s).a = s.a := rfl
@[simp] theorem hostSetFlag_x (f : Flag) (v : Bool) (s : State) : (hostSetFlag f v s).x = s.x := rfl
@[simp] theorem hostSetFlag_y (f : Flag) (v : Bool) (s : State) : (hostSetFlag f v s).y = s.y := rfl
@[simp] theorem hostSetFlag_p (f : Flag) (v : Bool) (s : State) : (hostSetFlag f v s).p = s.p.set f v := rfl
@[simp] theorem hostSetFlag_cycles (f : Flag) (v : Bool) (s : State) : (hostSetFlag f v s).cycles = s.cycles := rfl
@[simp] theorem hostSetFlag_target (f : Flag) (v : Bool) (s : State) : (hostSetFlag f v s).target = s.target := rfl
@[simp] theorem hostSetFlag_mem (f : Flag) (v : Bool) (s : State) : (hostSetFlag f v s).mem = s.mem := rfl

/-! ### hostWriteByte -/

@[simp] theorem hostWriteByte_pc (addr : Word) (v : Byte) (s : State) : (hostWriteByte addr v s).pc = s.pc := rfl
@[simp] theorem hostWriteByte_sp (addr : Word) (v : Byte) (s : State) : (hostWriteByte addr v s).sp = s.sp := rfl
@[simp] theorem hostWriteByte_a (addr : Word) (v : Byte) (s : State) : (hostWriteByte addr v s).a = s.a := rfl
@[simp] theorem hostWriteByte_x (addr : Word) (v : Byte) (s : State) : (hostWriteByte addr v s).x = s.x := rfl
@[simp] theorem hostWriteByte_y (addr : Word) (v : Byte) (s : State) : (hostWriteByte addr v s).y = s.y := rfl
@[simp] theorem hostWriteByte_p (addr : Word) (v : Byte) (s : State) : (hostWriteByte addr v s).p = s.p := rfl
@[simp] theorem hostWriteByte_cycles (addr : Word) (v : Byte) (s : State) : (hostWriteByte addr v s).cycles = s.cycles := rfl
@[simp] theorem hostWriteByte_target (addr : Word) (v : Byte) (s : State) : (hostWriteByte addr v s).target = s.target := rfl
@[simp] theorem hostWriteByte_mem (addr : Word) (v : Byte) (s : State) : (hostWriteByte addr v s).mem = s.mem.write addr v := rfl

/-! ### hostWriteWord -/

@[simp] theorem hostWriteWord_pc (addr v : Word) (s : State) : (hostWriteWord addr v s).pc = s.pc := rfl
@[simp] theorem hostWriteWord_sp (addr v : Word) (s : State) : (hostWriteWord addr v s).sp = s.sp := rfl
@[simp] theorem hostWriteWord_a (addr v : Word) (s : State) : (hostWriteWord addr v s).a = s.a := rfl
@[simp] theorem hostWriteWord_x (addr v : Word) (s : State) : (hostWriteWord addr v s).x = s.x := rfl
@[simp] theorem hostWriteWord_y (addr v : Word) (s : State) : (hostWriteWord addr v s).y = s.y := rfl
@[simp] theorem hostWriteWord_p (addr v : Word) (s : State) : (hostWriteWord addr v s).p = s.p := rfl
@[simp] theorem hostWriteWord_cycles (addr v : Word) (s : State) : (hostWriteWord addr v s).cycles = s.cycles := rfl
@[simp] theorem hostWriteWord_target (addr v : Word) (s : State) : (hostWriteWord addr v s).target = s.target := rfl
@[simp] theorem hostWriteWord_mem (addr v : Word) (s : State) : (hostWriteWord addr v s).mem = s.mem.writeWord addr v := rfl

/-! ### placeAtPc -/

@[simp] theorem placeAtPc_pc (s : State) (bytes : List Byte) : (placeAtPc s bytes).pc = s.pc := rfl
@[simp] theorem placeAtPc_sp (s : State) (bytes : List Byte) : (placeAtPc s bytes).sp = s.sp := rfl
@[simp] theorem placeAtPc_a (s : State) (bytes : List Byte) : (placeAtPc s bytes).a = s.a := rfl
@[simp] theorem placeAtPc_x (s : State) (bytes : List Byte) : (placeAtPc s bytes).x = s.x := rfl
@[simp] theorem placeAtPc_y (s : State) (bytes : List Byte) : (placeAtPc s bytes).y = s.y := rfl
@[simp] theorem placeAtPc_p (s : State) (bytes : List Byte) : (placeAtPc s bytes).p = s.p := rfl
@[simp] theorem placeAtPc_cycles (s : State) (bytes : List Byte) : (placeAtPc s bytes).cycles = s.cycles := rfl
@[simp] theorem placeAtPc_target (s : State) (bytes : List Byte) : (placeAtPc s bytes).target = s.target := rfl
@[simp] theorem placeAtPc_mem (s : State) (bytes : List Byte) : (placeAtPc s bytes).mem = s.mem.writeBytes s.pc bytes := rfl

end Sys2Proof.Machine
end

