-- ==== Sys2Proof/Laws/Operands.lean ====
section
/-! SUPPORT. One lemma per resolver: the operand value it reads and the state it leaves, with every read written as a
read of memory and every charge added up. -/

namespace Sys2Proof.Machine

/-- A state that differs from `s` in PC and cycles only, which is all that fetching and resolving an operand change. -/
def State.after (s : State) (bytes cycles : Nat) : State :=
  { s with pc := s.pc + BitVec.ofNat 16 bytes, cycles := s.cycles + cycles }

@[simp] theorem after_pc (s : State) (b c : Nat) : (s.after b c).pc = s.pc + BitVec.ofNat 16 b := rfl
@[simp] theorem after_sp (s : State) (b c : Nat) : (s.after b c).sp = s.sp := rfl
@[simp] theorem after_a (s : State) (b c : Nat) : (s.after b c).a = s.a := rfl
@[simp] theorem after_x (s : State) (b c : Nat) : (s.after b c).x = s.x := rfl
@[simp] theorem after_y (s : State) (b c : Nat) : (s.after b c).y = s.y := rfl
@[simp] theorem after_p (s : State) (b c : Nat) : (s.after b c).p = s.p := rfl
@[simp] theorem after_cycles (s : State) (b c : Nat) : (s.after b c).cycles = s.cycles + c := rfl
@[simp] theorem after_target (s : State) (b c : Nat) : (s.after b c).target = s.target := rfl
@[simp] theorem after_mem (s : State) (b c : Nat) : (s.after b c).mem = s.mem := rfl
@[simp] theorem after_reg (s : State) (b c : Nat) (r : Reg) : (s.after b c).reg r = s.reg r := by cases r <;> rfl

theorem consumeByte_after (s : State) (b : Byte) : s.consumeByte b = (b, s.after 1 1) := rfl

theorem consumeWord_after (s : State) (w : Word) : s.consumeWord w = (w, s.after 2 2) := rfl

theorem readByteAndTick_after (s : State) (b c : Nat) (addr : Word) :
    (s.after b c).readByteAndTick addr = (s.mem.read addr, s.after b (c + 1)) := rfl

theorem penalty_after (s : State) (b c : Nat) : (s.after b c).penalty = s.after b (c + 1) := rfl

theorem penaltyIf_after (s : State) (b c : Nat) (cond : Bool) :
    (s.after b c).penaltyIf cond = s.after b (c + if cond then 1 else 0) := by
  cases cond <;> rfl

/-- The cycles a page cross adds to the indexing of a base. -/
def crossCycles (base ea : Word) : Nat := if pageCross base ea then 1 else 0

theorem crossCycles_le (base ea : Word) : crossCycles base ea ≤ 1 := by
  unfold crossCycles; split <;> omega

theorem readPointer_after (s : State) (b c : Nat) (ptr : Byte) :
    readPointer ptr (s.after b c) =
      (concat (s.mem.read (zext16 (ptr + 1))) (s.mem.read (zext16 ptr)), s.after b (c + 2)) := rfl

theorem indexBase_after (r : Reg) (base : Word) (s : State) (b c : Nat) :
    indexBase r (base, s.after b c) =
      (base + zext16 (s.reg r), s.after b (c + crossCycles base (base + zext16 (s.reg r)))) := by
  simp [indexBase, penaltyIf_after, crossCycles]

theorem operand_zp (s : State) (zp : Byte) :
    readOperand (eaZp (s.consumeByte zp)) = (s.mem.read (zext16 zp), s.after 1 2) := rfl

theorem operand_zpX (s : State) (zp : Byte) :
    readOperand (eaZpX (s.consumeByte zp)) = (s.mem.read (zext16 (zp + s.x)), s.after 1 3) := rfl

theorem operand_zpY (s : State) (zp : Byte) :
    readOperand (eaZpY (s.consumeByte zp)) = (s.mem.read (zext16 (zp + s.y)), s.after 1 3) := rfl

theorem operand_abs (s : State) (addr : Word) :
    readOperand (eaAbs (s.consumeWord addr)) = (s.mem.read addr, s.after 2 3) := rfl

theorem operand_absX (s : State) (addr : Word) :
    readOperand (eaAbsX (s.consumeWord addr)) =
      (s.mem.read (addr + zext16 s.x), s.after 2 (2 + crossCycles addr (addr + zext16 s.x) + 1)) := by
  simp [eaAbsX, consumeWord_after, indexBase_after, readOperand, readByteAndTick_after, State.reg]

theorem operand_absY (s : State) (addr : Word) :
    readOperand (eaAbsY (s.consumeWord addr)) =
      (s.mem.read (addr + zext16 s.y), s.after 2 (2 + crossCycles addr (addr + zext16 s.y) + 1)) := by
  simp [eaAbsY, consumeWord_after, indexBase_after, readOperand, readByteAndTick_after, State.reg]

/-- The 16-bit address a zero-page pointer holds, its second byte wrapped in page 0. -/
def pointerAt (m : Memory) (ptr : Byte) : Word := concat (m.read (zext16 (ptr + 1))) (m.read (zext16 ptr))

theorem operand_indX (s : State) (zp : Byte) :
    readOperand (eaIndX (s.consumeByte zp)) = (s.mem.read (pointerAt s.mem (zp + s.x)), s.after 1 5) := rfl

theorem operand_indY (s : State) (zp : Byte) :
    readOperand (eaIndY (s.consumeByte zp)) =
      (s.mem.read (pointerAt s.mem zp + zext16 s.y),
       s.after 1 (3 + crossCycles (pointerAt s.mem zp) (pointerAt s.mem zp + zext16 s.y) + 1)) := by
  simp [eaIndY, consumeByte_after, readPointer_after, indexBase_after, readOperand, readByteAndTick_after, State.reg,
    pointerAt]

/-- A write-back after `after` is a state with five fields changed. -/
theorem loadValue_after (r : Reg) (v : Byte) (s : State) (b c : Nat) :
    loadValue r (v, s.after b c) = (s.after b c).setLoad r v := rfl

end Sys2Proof.Machine
end

