-- ==== Sys2Proof/Laws/Exec.lean ====
section
/-! SUPPORT. What running an instruction does, said once for all forms: its operand value, the cycles of its body, and
exec in terms of the two (`exec_eq`); and the inversion lemma over it. -/

namespace Sys2Proof

open Sys2Proof.Machine

/-- The value a load loads when its body runs in `s`, and 0 for the forms that load nothing. -/
def Instr.operandValue (i : Instr) (s : State) : Byte :=
  match i with
  | .brk | .nop | .undef _ => 0
  | .ldaImm v | .ldxImm v | .ldyImm v => v
  | .ldaZp zp | .ldxZp zp | .ldyZp zp => s.mem.read (zext16 zp)
  | .ldaZpX zp | .ldyZpX zp => s.mem.read (zext16 (zp + s.x))
  | .ldxZpY zp => s.mem.read (zext16 (zp + s.y))
  | .ldaAbs addr | .ldxAbs addr | .ldyAbs addr => s.mem.read addr
  | .ldaAbsX addr | .ldyAbsX addr => s.mem.read (addr + zext16 s.x)
  | .ldaAbsY addr | .ldxAbsY addr => s.mem.read (addr + zext16 s.y)
  | .ldaIndX zp => s.mem.read (pointerAt s.mem (zp + s.x))
  | .ldaIndY zp => s.mem.read (pointerAt s.mem zp + zext16 s.y)

/-- The cycles the body of an instruction charges when it runs in `s`, the opcode fetch not included. -/
def Instr.bodyCycles (i : Instr) (s : State) : Nat :=
  match i with
  | .brk => 6
  | .nop => 1
  | .undef _ => 0
  | .ldaImm _ | .ldxImm _ | .ldyImm _ => 1
  | .ldaZp _ | .ldxZp _ | .ldyZp _ => 2
  | .ldaZpX _ | .ldyZpX _ | .ldxZpY _ => 3
  | .ldaAbs _ | .ldxAbs _ | .ldyAbs _ => 3
  | .ldaAbsX addr | .ldyAbsX addr => 2 + crossCycles addr (addr + zext16 s.x) + 1
  | .ldaAbsY addr | .ldxAbsY addr => 2 + crossCycles addr (addr + zext16 s.y) + 1
  | .ldaIndX _ => 5
  | .ldaIndY zp => 3 + crossCycles (pointerAt s.mem zp) (pointerAt s.mem zp + zext16 s.y) + 1

/-- The state after an instruction's body: a load writes its register, Z and N after PC has moved over its operand
bytes; the others only charge cycles. -/
def Instr.effect (i : Instr) (s : State) : State :=
  match i.dest with
  | some r => (s.after (i.length - 1) (i.bodyCycles s)).setLoad r (i.operandValue s)
  | none => s.tick (i.bodyCycles s)

/-- What exec does, for every instruction in every state. -/
theorem exec_eq (i : Instr) (s : State) : exec i s = .next (i.effect s) := by
  cases i with
  | ldaAbsX w => simp only [exec, execLdaAbsX, operand_absX]; rfl
  | ldaAbsY w => simp only [exec, execLdaAbsY, operand_absY]; rfl
  | ldxAbsY w => simp only [exec, execLdxAbsY, operand_absY]; rfl
  | ldyAbsX w => simp only [exec, execLdyAbsX, operand_absX]; rfl
  | ldaIndY b => simp only [exec, execLdaIndY, operand_indY]; rfl
  | _ => rfl

/-- A body charges at most 6 cycles, and that of a load 1 to 5. -/
theorem bodyCycles_le (i : Instr) (s : State) :
    i.bodyCycles s ≤ 6 ∧ (i.dest ≠ none → 1 ≤ i.bodyCycles s ∧ i.bodyCycles s ≤ 5) := by
  have := crossCycles_le
  cases i with
  | ldaAbsX w | ldaAbsY w | ldxAbsY w | ldyAbsX w | ldaIndY w =>
    simp only [Instr.bodyCycles, Instr.dest]
    refine ⟨?_, fun _ => ⟨?_, ?_⟩⟩ <;> grind
  | _ => simp [Instr.bodyCycles, Instr.dest]

/-- A load is 2 or 3 bytes long, the others 1. -/
theorem length_eq_one_iff (i : Instr) : i.length = 1 ↔ i.dest = none := by
  cases i <;> simp [Instr.length, Instr.dest]

theorem one_le_length (i : Instr) : 1 ≤ i.length := by
  cases i <;> simp [Instr.length]

end Sys2Proof

namespace Sys2Proof.Machine

/-- What a body can do: nothing but charge at most 6 cycles, or load one register after moving PC over 1 or 2 operand
bytes and charging 1 to 5 cycles. -/
theorem exec_cases (i : Instr) (s : State) :
    (∃ c, i.dest = none ∧ c ≤ 6 ∧ exec i s = .next (s.tick c)) ∨
    (∃ r v b c, i.dest = some r ∧ b + 1 = i.length ∧ 1 ≤ c ∧ c ≤ 5 ∧ exec i s = .next ((s.after b c).setLoad r v)) := by
  obtain ⟨h6, h5⟩ := bodyCycles_le i s
  rw [exec_eq, Instr.effect]
  cases hd : i.dest with
  | none => exact .inl ⟨_, rfl, h6, rfl⟩
  | some r =>
    obtain ⟨h1, h5⟩ := h5 (by simp [hd])
    exact .inr ⟨r, _, i.length - 1, _, rfl, Nat.sub_add_cancel (one_le_length i), h1, h5, rfl⟩

end Sys2Proof.Machine
end

