-- ==== Sys2Proof/Laws/Memory.lean ====
section
/-! SUPPORT. The laws of memory: a read after a write, and every write keeps the canonical form. -/

namespace Sys2Proof.Machine

/-- A canonical memory from a later address on is canonical from an earlier one. -/
theorem wfFrom_mono {low low' : Nat} (h : low' ≤ low) {m : Memory} (hm : m.wfFrom low = true) :
    m.wfFrom low' = true := by
  cases m with
  | nil => rfl
  | cons c rest =>
    simp only [Memory.wfFrom, Bool.and_eq_true, decide_eq_true_eq] at hm ⊢
    exact ⟨⟨⟨le_trans h hm.1.1.1, hm.1.1.2⟩, hm.1.2⟩, hm.2⟩

/-- An address below the first one listed holds the initial byte. -/
theorem readAt_below {low a : Nat} (h : a < low) {m : Memory} (hm : m.wfFrom low = true) :
    m.readAt a = Params.initialByte := by
  induction m generalizing low with
  | nil => rfl
  | cons c rest ih =>
    simp only [Memory.wfFrom, Bool.and_eq_true, decide_eq_true_eq] at hm
    have : c.1 ≠ a := by omega
    simpa [Memory.readAt, this] using ih (by omega) hm.2

/-- Read after write, at the address written and at every other. -/
theorem readAt_writeAt {low : Nat} {m : Memory} (hm : m.wfFrom low = true) (a b : Nat) (v : Byte) :
    (m.writeAt a v).readAt b = if b = a then v else m.readAt b := by
  induction m generalizing low with
  | nil =>
    simp only [Memory.writeAt, Memory.readAt]
    by_cases hv : v = Params.initialByte <;> by_cases hb : b = a <;> simp [hv, hb, Memory.readAt]
    exact fun h => absurd h.symm hb
  | cons c rest ih =>
    simp only [Memory.wfFrom, Bool.and_eq_true, decide_eq_true_eq] at hm
    obtain ⟨⟨⟨_, _⟩, _⟩, hrest⟩ := hm
    have hbelow : ∀ d, d ≤ c.1 → Memory.readAt rest d = Params.initialByte :=
      fun d hd => readAt_below (Nat.lt_succ_of_le hd) hrest
    have hcons : ∀ d, d < c.1 → Memory.readAt (c :: rest) d = Params.initialByte := by
      intro d hd
      simp only [Memory.readAt, hbelow d hd.le, if_neg (Nat.ne_of_gt hd)]
    rcases lt_trichotomy a c.1 with hlt | heq | hgt
    · simp only [Memory.writeAt, hlt, if_true]
      by_cases hv : v = Params.initialByte <;> by_cases hb : b = a
      · rw [if_pos hv, if_pos hb, hb, hcons a hlt, hv]
      · rw [if_pos hv, if_neg hb]
      · simp [hv, hb, Memory.readAt]
      · simp [hv, hb, Ne.symm hb, Memory.readAt]
    · simp only [Memory.writeAt, heq, if_true]
      by_cases hv : v = Params.initialByte <;> by_cases hb : b = c.1
      · simp [hv, hb, hbelow c.1 le_rfl]
      · simp [hv, hb, Ne.symm hb, Memory.readAt]
      · simp [hv, hb, Memory.readAt]
      · simp [hv, hb, Ne.symm hb, Memory.readAt]
    · have hnlt : ¬ a < c.1 := by omega
      have hne : a ≠ c.1 := by omega
      simp only [Memory.writeAt, hnlt, hne, if_false, Memory.readAt, ih hrest]
      by_cases hcb : c.1 = b
      · have : b ≠ a := by omega
        simp [hcb, this]
      · simp [hcb]

/-- A write inside the address space keeps the canonical form. -/
theorem wfFrom_writeAt {low a : Nat} {m : Memory} (hm : m.wfFrom low = true) (hlow : low ≤ a)
    (ha : a < Params.memorySize) (v : Byte) : (m.writeAt a v).wfFrom low = true := by
  induction m generalizing low with
  | nil =>
    simp only [Memory.writeAt]
    split <;> simp_all [Memory.wfFrom]
  | cons c rest ih =>
    simp only [Memory.wfFrom, Bool.and_eq_true, decide_eq_true_eq] at hm
    obtain ⟨⟨⟨hc, hc'⟩, hv⟩, hrest⟩ := hm
    have hrest' : Memory.wfFrom low rest = true := wfFrom_mono (by omega : low ≤ c.1 + 1) hrest
    simp only [Memory.writeAt]
    split
    · split <;> simp_all [Memory.wfFrom]
    · split
      · split <;> simp_all [Memory.wfFrom]
      · have := ih hrest (by omega)
        simp_all [Memory.wfFrom]

theorem toNat_lt_memorySize (addr : Word) : addr.toNat < Params.memorySize := addr.isLt

/-- `Memory.write` keeps the canonical form. -/
theorem wf_write {m : Memory} (hm : m.wf = true) (addr : Word) (v : Byte) : (m.write addr v).wf = true :=
  wfFrom_writeAt hm (Nat.zero_le _) (toNat_lt_memorySize addr) v

/-- `Memory.writeWord` keeps the canonical form. -/
theorem wf_writeWord {m : Memory} (hm : m.wf = true) (addr v : Word) : (m.writeWord addr v).wf = true :=
  wf_write (wf_write hm _ _) _ _

/-- `Memory.writeBytes` keeps the canonical form. -/
theorem wf_writeBytes {m : Memory} (hm : m.wf = true) (addr : Word) (bytes : List Byte) :
    (m.writeBytes addr bytes).wf = true := by
  induction bytes generalizing m addr with
  | nil => exact hm
  | cons v rest ih => exact ih (wf_write hm addr v) _

end Sys2Proof.Machine
end

