-- ==== Sys2Proof/Laws/Commands.lean ====
section
/-! SUPPORT. What a step can do, said once, and the loop of Execute as runs of steps. -/

namespace Sys2Proof.Machine

theorem step_eq (s : State) : step s = exec (instrAt s) (s.after 1 1) := rfl

theorem after_after (s : State) (b c b' c' : Nat) : (s.after b c).after b' c' = s.after (b + b') (c + c') := by
  simp [State.after, BitVec.add_assoc, Nat.add_assoc, BitVec.ofNat_add]

/-- What a step can do: charge 1 to 7 cycles and move PC past the opcode; or load one register, moving PC past the
instruction and charging 2 to 6 cycles. -/
theorem step_cases (s : State) :
    (∃ c, (instrAt s).dest = none ∧ (instrAt s).length = 1 ∧ 1 ≤ c ∧ c ≤ 7 ∧ step s = .next (s.after 1 c)) ∨
    (∃ r v c, (instrAt s).dest = some r ∧ 2 ≤ c ∧ c ≤ 6 ∧
      step s = .next ((s.after (instrAt s).length c).setLoad r v)) := by
  rw [step_eq]
  rcases exec_cases (instrAt s) (s.after 1 1) with ⟨c, hd, hc, h⟩ | ⟨r, v, b, c, hd, hb, hc, hc', h⟩
  · refine .inl ⟨1 + c, hd, ?_, by omega, by omega, ?_⟩
    · revert hd; cases instrAt s <;> simp [Instr.dest, Instr.length]
    · rw [h]; simp [State.tick, State.after, Nat.add_assoc]
  · refine .inr ⟨r, v, 1 + c, hd, by omega, by omega, ?_⟩
    rw [h, after_after, ← hb, Nat.add_comm 1 b]

/-- A step always answers a next state, later in cycles by 1 to 7, with the same memory and the same target. -/
theorem step_next (s : State) :
    ∃ t, step s = .next t ∧ s.cycles + 1 ≤ t.cycles ∧ t.cycles ≤ s.cycles + 7 ∧ t.mem = s.mem ∧ t.target = s.target := by
  rcases step_cases s with ⟨c, _, _, h1, h7, h⟩ | ⟨r, v, c, _, h1, h7, h⟩ <;>
    exact ⟨_, h, by simp; omega, by simp; omega, by simp, by simp⟩

/-- A run of k + 1 steps takes one step and then k. -/
theorem run_succ (k : Nat) {s t : State} (h : step s = .next t) :
    Host.Core.run core (k + 1) s = Host.Core.run core k t := by
  have h' : core.step s = .next t := h
  simp only [Host.Core.run, h']

@[simp] theorem run_zero (s : State) : Host.Core.run core 0 s = .next s := rfl

end Sys2Proof.Machine
end

