-- ==== Sys2Proof/Laws/PerInstr.lean ====
section
/-! SUPPORT. Statements made instruction by instruction, one lemma per constructor. -/

namespace Sys2Proof.Laws.EncodeShape

/-- An instruction's encoding begins with its opcode byte and is as long as R228 says. -/
def Statement (i : Instr) : Prop := (encode i).head? = some i.opcode ∧ (encode i).length = i.length

theorem brk : Statement .brk := ⟨rfl, rfl⟩
theorem nop : Statement .nop := ⟨rfl, rfl⟩
theorem ldaImm (imm : Byte) : Statement (.ldaImm imm) := ⟨rfl, rfl⟩
theorem ldaZp (zp : Byte) : Statement (.ldaZp zp) := ⟨rfl, rfl⟩
theorem ldaZpX (zp : Byte) : Statement (.ldaZpX zp) := ⟨rfl, rfl⟩
theorem ldaAbs (addr : Word) : Statement (.ldaAbs addr) := ⟨rfl, rfl⟩
theorem ldaAbsX (addr : Word) : Statement (.ldaAbsX addr) := ⟨rfl, rfl⟩
theorem ldaAbsY (addr : Word) : Statement (.ldaAbsY addr) := ⟨rfl, rfl⟩
theorem ldaIndX (zp : Byte) : Statement (.ldaIndX zp) := ⟨rfl, rfl⟩
theorem ldaIndY (zp : Byte) : Statement (.ldaIndY zp) := ⟨rfl, rfl⟩
theorem ldxImm (imm : Byte) : Statement (.ldxImm imm) := ⟨rfl, rfl⟩
theorem ldxZp (zp : Byte) : Statement (.ldxZp zp) := ⟨rfl, rfl⟩
theorem ldxZpY (zp : Byte) : Statement (.ldxZpY zp) := ⟨rfl, rfl⟩
theorem ldxAbs (addr : Word) : Statement (.ldxAbs addr) := ⟨rfl, rfl⟩
theorem ldxAbsY (addr : Word) : Statement (.ldxAbsY addr) := ⟨rfl, rfl⟩
theorem ldyImm (imm : Byte) : Statement (.ldyImm imm) := ⟨rfl, rfl⟩
theorem ldyZp (zp : Byte) : Statement (.ldyZp zp) := ⟨rfl, rfl⟩
theorem ldyZpX (zp : Byte) : Statement (.ldyZpX zp) := ⟨rfl, rfl⟩
theorem ldyAbs (addr : Word) : Statement (.ldyAbs addr) := ⟨rfl, rfl⟩
theorem ldyAbsX (addr : Word) : Statement (.ldyAbsX addr) := ⟨rfl, rfl⟩
theorem undef (op : Byte) : Statement (.undef op) := ⟨rfl, rfl⟩

end Sys2Proof.Laws.EncodeShape
end

