-- ==== Sys2Proof/Laws/Safety.lean ====
section
/-! SUPPORT. The premise on the cycle counter, met by every count below the least width allowed (R227). -/

namespace Sys2Proof.Machine

/-- A count that stays below 2^32 stays inside every width the counter may have. -/
theorem counterFits_of_lt {s : State} {n : Nat} (h : s.cycles + n < 2 ^ 32) : CounterFits s n :=
  lt_of_lt_of_le h (Nat.pow_le_pow_right (by decide) (Nat.le_add_right 32 _))

/-- A smaller charge fits where a larger one does. -/
theorem CounterFits.mono {s : State} {n k : Nat} (h : CounterFits s n) (hk : k ≤ n) : CounterFits s k :=
  lt_of_le_of_lt (Nat.add_le_add_left hk _) h

/-- A budget that ends, with its overshoot, below 2^32 is in range. -/
theorem inRange_execute {s : State} {n : Nat} (h : s.cycles + (n + 6) < 2 ^ 32) : (Command.execute n).InRange s :=
  counterFits_of_lt h

/-- A Reset that ends below 2^32 is in range. -/
theorem inRange_reset {s : State} (h : s.cycles + Params.resetCycles < 2 ^ 32) : Command.reset.InRange s :=
  counterFits_of_lt h

end Sys2Proof.Machine
end

