-- ==== Sys2Proof/Tests/Slice0.lean ====
section
/-! SUPPORT. Tests: every constructor's decoding by a word written out from R74 and R71, the check of WellFormed, one or
two single steps per instruction from the vectors of spec/95_test_vectors.md, the memory, fetch and command vectors, and
for each obligation with hypotheses a state that meets them. Expected results are the spec's, not the model's. -/

namespace Sys2Proof.Tests

open Sys2Proof Sys2Proof.Machine

/-- A state with a PC, index registers and bytes of memory, the rest as after reset (so the count is 6). -/
def machine (pc : Word) (x y : Byte) (cells : List (Word × Byte)) : State :=
  cells.foldl (fun s c => hostWriteByte c.1 c.2 s) { State.reset with pc := pc, x := x, y := y }

/-- The next state of an outcome, where there is one. -/
def next? (o : Host.Outcome State Fault Refusal) : Option State :=
  match o with
  | .next s => some s
  | .fault _ => none
  | .refused _ => none

/-- What the vectors list of a state. -/
structure View where
  a : Byte
  x : Byte
  y : Byte
  z : Bool
  n : Bool
  pc : Word
  cycles : Nat
  deriving DecidableEq, Repr

/-- The view of the state after one step. -/
def view (s : State) : Option View :=
  (next? (step s)).map fun t => ⟨t.a, t.x, t.y, t.p.z, t.p.n, t.pc, t.cycles⟩

/-! ### WellFormed: an undefined opcode that is not undefined -/

theorem test_illformed_undef_of_lda : (Instr.undef 0xA9).wellFormed = false := by decide
theorem test_illformed_undef_of_brk : (Instr.undef 0x00).wellFormed = false := by decide
theorem test_wellformed_undef : (Instr.undef 0x85).wellFormed = true := by decide

/-! ### Decoding: every row of R74, its bytes written out -/

theorem test_decode_brk : decode [0b00000000] = .ok (.brk, []) := by decide
theorem test_decode_nop : decode [0b11101010] = .ok (.nop, []) := by decide
theorem test_decode_ldaImm : decode [0b10101001, 0b10000000] = .ok (.ldaImm 0x80, []) := by decide
theorem test_decode_ldaZp : decode [0b10100101, 0b00010000] = .ok (.ldaZp 0x10, []) := by decide
theorem test_decode_ldaZpX : decode [0b10110101, 0b00100000] = .ok (.ldaZpX 0x20, []) := by decide
theorem test_decode_ldaAbs : decode [0b10101101, 0b00110100, 0b00010010] = .ok (.ldaAbs 0x1234, []) := by decide
theorem test_decode_ldaAbsX : decode [0b10111101, 0b11111110, 0b00100000] = .ok (.ldaAbsX 0x20FE, []) := by decide
theorem test_decode_ldaAbsY : decode [0b10111001, 0b11111111, 0b00000000] = .ok (.ldaAbsY 0x00FF, []) := by decide
theorem test_decode_ldaIndX : decode [0b10100001, 0b11111110] = .ok (.ldaIndX 0xFE, []) := by decide
theorem test_decode_ldaIndY : decode [0b10110001, 0b11111111] = .ok (.ldaIndY 0xFF, []) := by decide
theorem test_decode_ldxImm : decode [0b10100010, 0b00000000] = .ok (.ldxImm 0x00, []) := by decide
theorem test_decode_ldxZp : decode [0b10100110, 0b11111111] = .ok (.ldxZp 0xFF, []) := by decide
theorem test_decode_ldxZpY : decode [0b10110110, 0b11111111] = .ok (.ldxZpY 0xFF, []) := by decide
theorem test_decode_ldxAbs : decode [0b10101110, 0b11111111, 0b11111111] = .ok (.ldxAbs 0xFFFF, []) := by decide
theorem test_decode_ldxAbsY : decode [0b10111110, 0b11110000, 0b11111111] = .ok (.ldxAbsY 0xFFF0, []) := by decide
theorem test_decode_ldyImm : decode [0b10100000, 0b11111111] = .ok (.ldyImm 0xFF, []) := by decide
theorem test_decode_ldyZp : decode [0b10100100, 0b00000000] = .ok (.ldyZp 0x00, []) := by decide
theorem test_decode_ldyZpX : decode [0b10110100, 0b10000000] = .ok (.ldyZpX 0x80, []) := by decide
theorem test_decode_ldyAbs : decode [0b10101100, 0b00000000, 0b10000000] = .ok (.ldyAbs 0x8000, []) := by decide
theorem test_decode_ldyAbsX : decode [0b10111100, 0b10000000, 0b00010010] = .ok (.ldyAbsX 0x1280, []) := by decide
theorem test_decode_undef : decode [0b10000101] = .ok (.undef 0x85, []) := by decide

theorem test_decode_leaves_rest : decode [0x85, 0x10] = .ok (.undef 0x85, [0x10]) := by decide
theorem test_decode_truncated : decode [0xAD, 0x34] = .error .truncated := by decide
theorem test_decode_empty : decode [] = .error .truncated := by decide
theorem test_table_word : decodeTableWord 24 0x20FEBD = some (.ldaAbsX 0x20FE) := by decide
theorem test_table_word_operands_zero : decodeTableWord 8 0xBD = some (.ldaAbsX 0x0000) := by decide
theorem test_fetch_word_runs : view (State.reset.withFetchWord 16 0x80A9) =
    some ⟨0x80, 0, 0, false, true, 0x0002, 8⟩ := by decide
theorem test_fetch_word_runs_undef : view (State.reset.withFetchWord 8 0xFF) =
    some ⟨0, 0, 0, false, false, 0x0001, 7⟩ := by decide

/-! ### One step per instruction: vectors I1 to I24 of spec/95_test_vectors.md (the count starts at 6) -/

/-- I1. -/
def state_ldaImm : State := machine 0x8000 0x00 0x00
    [(0x8000, 0xA9), (0x8001, 0x80)]

theorem test_step_ldaImm : view state_ldaImm =
    some ⟨0x80, 0x00, 0x00, false, true, 0x8002, 8⟩ := by decide

/-- I2. -/
def state_ldaZp : State := machine 0x8000 0x00 0x00
    [(0x8000, 0xA5), (0x8001, 0x10), (0x0010, 0x00)]

theorem test_step_ldaZp : view state_ldaZp =
    some ⟨0x00, 0x00, 0x00, true, false, 0x8002, 9⟩ := by decide

/-- I3. -/
def state_ldaZpX : State := machine 0x8000 0xF0 0x00
    [(0x8000, 0xB5), (0x8001, 0x20), (0x0010, 0x42)]

theorem test_step_ldaZpX : view state_ldaZpX =
    some ⟨0x42, 0xF0, 0x00, false, false, 0x8002, 10⟩ := by decide

/-- I4. -/
def state_ldaAbs : State := machine 0x8000 0x00 0x00
    [(0x8000, 0xAD), (0x8001, 0x34), (0x8002, 0x12), (0x1234, 0xFF)]

theorem test_step_ldaAbs : view state_ldaAbs =
    some ⟨0xFF, 0x00, 0x00, false, true, 0x8003, 10⟩ := by decide

/-- I5. -/
def state_ldaAbsX : State := machine 0x8000 0x10 0x00
    [(0x8000, 0xBD), (0x8001, 0xFE), (0x8002, 0x20), (0x210E, 0x01)]

theorem test_step_ldaAbsX : view state_ldaAbsX =
    some ⟨0x01, 0x10, 0x00, false, false, 0x8003, 11⟩ := by decide

/-- I6. -/
def state_ldaAbsX_same_page : State := machine 0x8000 0x05 0x00
    [(0x8000, 0xBD), (0x8001, 0x00), (0x8002, 0x20), (0x2005, 0x00)]

theorem test_step_ldaAbsX_same_page : view state_ldaAbsX_same_page =
    some ⟨0x00, 0x05, 0x00, true, false, 0x8003, 10⟩ := by decide

/-- I7. -/
def state_ldaAbsY : State := machine 0x8000 0x00 0x01
    [(0x8000, 0xB9), (0x8001, 0xFF), (0x8002, 0x00), (0x0100, 0x80)]

theorem test_step_ldaAbsY : view state_ldaAbsY =
    some ⟨0x80, 0x00, 0x01, false, true, 0x8003, 11⟩ := by decide

/-- I8. -/
def state_ldaIndX : State := machine 0x8000 0x04 0x00
    [(0x8000, 0xA1), (0x8001, 0xFE), (0x0002, 0x34), (0x0003, 0x12), (0x1234, 0xC3)]

theorem test_step_ldaIndX : view state_ldaIndX =
    some ⟨0xC3, 0x04, 0x00, false, true, 0x8002, 12⟩ := by decide

/-- E17. -/
def state_ldaIndX_wraps : State := machine 0x8000 0x00 0x00
    [(0x8000, 0xA1), (0x8001, 0xFF), (0x00FF, 0x78), (0x0000, 0x56), (0x5678, 0x11), (0x0100, 0x99)]

theorem test_step_ldaIndX_wraps : view state_ldaIndX_wraps =
    some ⟨0x11, 0x00, 0x00, false, false, 0x8002, 12⟩ := by decide

/-- I9. -/
def state_ldaIndY : State := machine 0x8000 0x00 0xFF
    [(0x8000, 0xB1), (0x8001, 0xFF), (0x00FF, 0x01), (0x0000, 0x30), (0x3100, 0x00)]

theorem test_step_ldaIndY : view state_ldaIndY =
    some ⟨0x00, 0x00, 0xFF, true, false, 0x8002, 12⟩ := by decide

/-- E21. -/
def state_ldaIndY_no_cross : State := machine 0x8000 0x00 0x00
    [(0x8000, 0xB1), (0x8001, 0x02), (0x0002, 0x34), (0x0003, 0x12), (0x1234, 0xC3)]

theorem test_step_ldaIndY_no_cross : view state_ldaIndY_no_cross =
    some ⟨0xC3, 0x00, 0x00, false, true, 0x8002, 11⟩ := by decide

/-- I10. -/
def state_ldxImm : State := machine 0x8000 0x09 0x00
    [(0x8000, 0xA2), (0x8001, 0x00)]

theorem test_step_ldxImm : view state_ldxImm =
    some ⟨0x00, 0x00, 0x00, true, false, 0x8002, 8⟩ := by decide

/-- I11. -/
def state_ldxZp : State := machine 0x8000 0x00 0x00
    [(0x8000, 0xA6), (0x8001, 0xFF), (0x00FF, 0x7F)]

theorem test_step_ldxZp : view state_ldxZp =
    some ⟨0x00, 0x7F, 0x00, false, false, 0x8002, 9⟩ := by decide

/-- I12. -/
def state_ldxZpY : State := machine 0x8000 0x00 0x02
    [(0x8000, 0xB6), (0x8001, 0xFF), (0x0001, 0x80)]

theorem test_step_ldxZpY : view state_ldxZpY =
    some ⟨0x00, 0x80, 0x02, false, true, 0x8002, 10⟩ := by decide

/-- I13. -/
def state_ldxAbs : State := machine 0x8000 0x00 0x00
    [(0x8000, 0xAE), (0x8001, 0xFF), (0x8002, 0xFF), (0xFFFF, 0x01)]

theorem test_step_ldxAbs : view state_ldxAbs =
    some ⟨0x00, 0x01, 0x00, false, false, 0x8003, 10⟩ := by decide

/-- I14. -/
def state_ldxAbsY : State := machine 0x8000 0x07 0x20
    [(0x8000, 0xBE), (0x8001, 0xF0), (0x8002, 0xFF), (0x0010, 0x00)]

theorem test_step_ldxAbsY : view state_ldxAbsY =
    some ⟨0x00, 0x00, 0x20, true, false, 0x8003, 11⟩ := by decide

/-- I15. -/
def state_ldyImm : State := machine 0x8000 0x00 0x00
    [(0x8000, 0xA0), (0x8001, 0xFF)]

theorem test_step_ldyImm : view state_ldyImm =
    some ⟨0x00, 0x00, 0xFF, false, true, 0x8002, 8⟩ := by decide

/-- I16. -/
def state_ldyZp : State := machine 0x8000 0x00 0x00
    [(0x8000, 0xA4), (0x8001, 0x00), (0x0000, 0x01)]

theorem test_step_ldyZp : view state_ldyZp =
    some ⟨0x00, 0x00, 0x01, false, false, 0x8002, 9⟩ := by decide

/-- I17. -/
def state_ldyZpX : State := machine 0x8000 0x80 0x00
    [(0x8000, 0xB4), (0x8001, 0x80), (0x0000, 0xFE)]

theorem test_step_ldyZpX : view state_ldyZpX =
    some ⟨0x00, 0x80, 0xFE, false, true, 0x8002, 10⟩ := by decide

/-- I18. -/
def state_ldyAbs : State := machine 0x9000 0x00 0x03
    [(0x9000, 0xAC), (0x9001, 0x00), (0x9002, 0x80), (0x8000, 0x00)]

theorem test_step_ldyAbs : view state_ldyAbs =
    some ⟨0x00, 0x00, 0x00, true, false, 0x9003, 10⟩ := by decide

/-- I19. -/
def state_ldyAbsX_same_page : State := machine 0x8000 0x7F 0x00
    [(0x8000, 0xBC), (0x8001, 0x80), (0x8002, 0x12), (0x12FF, 0x05)]

theorem test_step_ldyAbsX_same_page : view state_ldyAbsX_same_page =
    some ⟨0x00, 0x7F, 0x05, false, false, 0x8003, 10⟩ := by decide

/-- I20. -/
def state_ldyAbsX : State := machine 0x8000 0x80 0x00
    [(0x8000, 0xBC), (0x8001, 0x80), (0x8002, 0x12), (0x1300, 0x85)]

theorem test_step_ldyAbsX : view state_ldyAbsX =
    some ⟨0x00, 0x80, 0x85, false, true, 0x8003, 11⟩ := by decide

/-- I21. -/
def state_brk : State := machine 0x8007 0x01 0x02
    [(0x8007, 0x00)]

theorem test_step_brk : view state_brk =
    some ⟨0x00, 0x01, 0x02, false, false, 0x8008, 13⟩ := by decide

/-- I22. -/
def state_nop : State := machine 0x8006 0x01 0x02
    [(0x8006, 0xEA)]

theorem test_step_nop : view state_nop =
    some ⟨0x00, 0x01, 0x02, false, false, 0x8007, 8⟩ := by decide

/-- I23. -/
def state_undef : State := machine 0x0001 0x01 0x02
    [(0x0001, 0x85), (0x0002, 0x10)]

theorem test_step_undef : view state_undef =
    some ⟨0x00, 0x01, 0x02, false, false, 0x0002, 7⟩ := by decide

/-- top of memory. -/
def state_ldaImm_at_top : State := machine 0xFFFF 0x00 0x00
    [(0xFFFF, 0xA9), (0x0000, 0x7F)]

theorem test_step_ldaImm_at_top : view state_ldaImm_at_top =
    some ⟨0x7F, 0x00, 0x00, false, false, 0x0001, 8⟩ := by decide

/-- I23: the byte after an undefined opcode is not consumed, and nothing is stored at 0x0010. -/
theorem test_undef_stores_nothing : (next? (step state_undef)).map (fun t => t.mem.read 0x0010) = some 0x00 := by decide

/-- L6: a load overwrites Z and N that were both set; the other flags keep their values. -/
theorem test_load_flags :
    ((Flags.mk true true true true true true true true).loaded 0x00) =
      Flags.mk true true true true true true true false := by decide

/-! ### Memory, fetch and page-cross vectors -/

/-- M2. -/
theorem test_readWord_wraps : (machine 0 0 0 [(0xFFFF, 0x34), (0x0000, 0x12)]).mem.readWord 0xFFFF = 0x1234 := by decide

/-- M3. -/
theorem test_writeWord_wraps : (let m := Memory.writeWord [] 0xFFFF 0xBEEF
    (m.read 0xFFFF, m.read 0x0000)) = (0xEF, 0xBE) := by decide

/-- Writing the initial byte takes the entry out: the memory is again the empty one. -/
theorem test_write_zero_unlists : Memory.write (Memory.write [] 0x0200 0xFF) 0x0200 0x00 = [] := by decide

/-- F5. -/
theorem test_fetchWord_at_top :
    (let r := (machine 0xFFFF 0 0 [(0xFFFF, 0x05)]).fetchWord; (r.1, r.2.pc, r.2.cycles)) = (0x0005, 0x0001, 8) := by
  decide

/-- E11 and E12. -/
theorem test_pageCross : (pageCross 0x1200 0x12FF, pageCross 0xFFFF 0x0000) = (false, true) := by decide

/-- R37's layout, N V U B D I Z C: after reset only U (bit 5) and I (bit 2) are set. -/
theorem test_byteImage_reset : State.reset.p.byteImage = 0x24 := by decide

/-! ### Commands -/

/-- R4: Reset keeps A, X and Y, clears the flags but I and U, and adds 6. -/
theorem test_reset_keeps_registers :
    (let s := resetCommand { machine 0 0x06 0x07 [(0xFFFC, 0x34), (0xFFFD, 0x12)] with
                a := 0x05, cycles := 50, p := Flags.mk true true false true false true true true }
     (s.pc, s.sp, s.a, s.x, s.y, s.cycles)) = (0x1234, 0xFD, 0x05, 0x06, 0x07, 56) := by decide

/-- X2: a budget of 1 runs one instruction and overshoots by 3. -/
theorem test_execute_overshoots :
    (next? (execute 1 (machine 0x8000 0 0 [(0x8000, 0xAD), (0x8001, 0x00), (0x8002, 0x30)]))).map
      (fun t => (t.pc, t.cycles, t.target)) = some (0x8003, 10, none) := by decide

/-- X3: a budget of 3 runs two immediate loads. -/
theorem test_execute_two :
    (next? (execute 3 (machine 0x8000 0 0 [(0x8000, 0xA9), (0x8001, 0x01), (0x8002, 0xA9), (0x8003, 0x02)]))).map
      (fun t => (t.a, t.pc, t.cycles)) = some (0x02, 0x8004, 10) := by decide

/-- R34: a host write of U is discarded. -/
theorem test_host_write_u : (hostSetFlag .u false State.reset).p.u = true := by decide

/-- R32: the host can set D. -/
theorem test_host_write_d : (hostSetFlag .d true State.reset).p.d = true := by decide

/-! ### Witnesses: states and operands that meet the hypotheses of each obligation that has any -/

/-- A state whose count is that of reset is in range for any charge up to 1000. -/
theorem witness_counter {s : State} (h : s.cycles = 6) (n : Nat) (hn : n ≤ 1000) : CounterFits s n :=
  counterFits_of_lt (by rw [h]; omega)

theorem witness_DecodeOfEncode : (Instr.undef 0xFF).wellFormed = true ∧ (Instr.ldaAbsX 0xFFFF).wellFormed = true := by
  decide

theorem witness_StepRunsDecoded :
    (let s := state_ldaImm_at_top
     decode [s.mem.read s.pc, s.mem.read (s.pc + 1), s.mem.read (s.pc + 2)] = .ok (.ldaImm 0x7F, [0x00])) := by decide

theorem witness_LoadImmediate :
    (CounterFits state_ldaImm 2 ∧ state_ldaImm.mem.read state_ldaImm.pc = 0xA9 ∧ state_ldaImm.mem.read (state_ldaImm.pc + 1) = 0x80) ∧
    (CounterFits state_ldxImm 2 ∧ state_ldxImm.mem.read state_ldxImm.pc = 0xA2 ∧ state_ldxImm.mem.read (state_ldxImm.pc + 1) = 0x00) ∧
    (CounterFits state_ldyImm 2 ∧ state_ldyImm.mem.read state_ldyImm.pc = 0xA0 ∧ state_ldyImm.mem.read (state_ldyImm.pc + 1) = 0xFF) ∧
    (CounterFits state_ldaImm_at_top 2 ∧ state_ldaImm_at_top.mem.read state_ldaImm_at_top.pc = 0xA9 ∧ state_ldaImm_at_top.mem.read (state_ldaImm_at_top.pc + 1) = 0x7F) :=
  ⟨⟨witness_counter (by decide) _ (by decide), by decide⟩,
    ⟨witness_counter (by decide) _ (by decide), by decide⟩,
    ⟨witness_counter (by decide) _ (by decide), by decide⟩,
    ⟨witness_counter (by decide) _ (by decide), by decide⟩⟩

theorem witness_LoadZeroPage :
    (CounterFits state_ldaZp 3 ∧ state_ldaZp.mem.read state_ldaZp.pc = 0xA5 ∧ state_ldaZp.mem.read (state_ldaZp.pc + 1) = 0x10) ∧
    (CounterFits state_ldxZp 3 ∧ state_ldxZp.mem.read state_ldxZp.pc = 0xA6 ∧ state_ldxZp.mem.read (state_ldxZp.pc + 1) = 0xFF) ∧
    (CounterFits state_ldyZp 3 ∧ state_ldyZp.mem.read state_ldyZp.pc = 0xA4 ∧ state_ldyZp.mem.read (state_ldyZp.pc + 1) = 0x00) :=
  ⟨⟨witness_counter (by decide) _ (by decide), by decide⟩,
    ⟨witness_counter (by decide) _ (by decide), by decide⟩,
    ⟨witness_counter (by decide) _ (by decide), by decide⟩⟩

theorem witness_LoadZeroPageX :
    (CounterFits state_ldaZpX 4 ∧ state_ldaZpX.mem.read state_ldaZpX.pc = 0xB5 ∧ state_ldaZpX.mem.read (state_ldaZpX.pc + 1) = 0x20) ∧
    (CounterFits state_ldyZpX 4 ∧ state_ldyZpX.mem.read state_ldyZpX.pc = 0xB4 ∧ state_ldyZpX.mem.read (state_ldyZpX.pc + 1) = 0x80) :=
  ⟨⟨witness_counter (by decide) _ (by decide), by decide⟩,
    ⟨witness_counter (by decide) _ (by decide), by decide⟩⟩

theorem witness_LoadZeroPageY :
    (CounterFits state_ldxZpY 4 ∧ state_ldxZpY.mem.read state_ldxZpY.pc = 0xB6 ∧ state_ldxZpY.mem.read (state_ldxZpY.pc + 1) = 0xFF) :=
  ⟨witness_counter (by decide) _ (by decide), by decide⟩

theorem witness_LoadAbsolute :
    (CounterFits state_ldaAbs 4 ∧ state_ldaAbs.mem.read state_ldaAbs.pc = 0xAD ∧ state_ldaAbs.mem.read (state_ldaAbs.pc + 1) = BitVec.ofNat 8 (BitVec.toNat (0x1234 : Word)) ∧ state_ldaAbs.mem.read (state_ldaAbs.pc + 2) = BitVec.ofNat 8 (BitVec.toNat (0x1234 : Word) / 256)) ∧
    (CounterFits state_ldxAbs 4 ∧ state_ldxAbs.mem.read state_ldxAbs.pc = 0xAE ∧ state_ldxAbs.mem.read (state_ldxAbs.pc + 1) = BitVec.ofNat 8 (BitVec.toNat (0xFFFF : Word)) ∧ state_ldxAbs.mem.read (state_ldxAbs.pc + 2) = BitVec.ofNat 8 (BitVec.toNat (0xFFFF : Word) / 256)) ∧
    (CounterFits state_ldyAbs 4 ∧ state_ldyAbs.mem.read state_ldyAbs.pc = 0xAC ∧ state_ldyAbs.mem.read (state_ldyAbs.pc + 1) = BitVec.ofNat 8 (BitVec.toNat (0x8000 : Word)) ∧ state_ldyAbs.mem.read (state_ldyAbs.pc + 2) = BitVec.ofNat 8 (BitVec.toNat (0x8000 : Word) / 256)) :=
  ⟨⟨witness_counter (by decide) _ (by decide), by decide⟩,
    ⟨witness_counter (by decide) _ (by decide), by decide⟩,
    ⟨witness_counter (by decide) _ (by decide), by decide⟩⟩

theorem witness_LoadAbsoluteX :
    (CounterFits state_ldaAbsX 5 ∧ state_ldaAbsX.mem.read state_ldaAbsX.pc = 0xBD ∧ state_ldaAbsX.mem.read (state_ldaAbsX.pc + 1) = BitVec.ofNat 8 (BitVec.toNat (0x20FE : Word)) ∧ state_ldaAbsX.mem.read (state_ldaAbsX.pc + 2) = BitVec.ofNat 8 (BitVec.toNat (0x20FE : Word) / 256)) ∧
    (CounterFits state_ldaAbsX_same_page 5 ∧ state_ldaAbsX_same_page.mem.read state_ldaAbsX_same_page.pc = 0xBD ∧ state_ldaAbsX_same_page.mem.read (state_ldaAbsX_same_page.pc + 1) = BitVec.ofNat 8 (BitVec.toNat (0x2000 : Word)) ∧ state_ldaAbsX_same_page.mem.read (state_ldaAbsX_same_page.pc + 2) = BitVec.ofNat 8 (BitVec.toNat (0x2000 : Word) / 256)) ∧
    (CounterFits state_ldyAbsX 5 ∧ state_ldyAbsX.mem.read state_ldyAbsX.pc = 0xBC ∧ state_ldyAbsX.mem.read (state_ldyAbsX.pc + 1) = BitVec.ofNat 8 (BitVec.toNat (0x1280 : Word)) ∧ state_ldyAbsX.mem.read (state_ldyAbsX.pc + 2) = BitVec.ofNat 8 (BitVec.toNat (0x1280 : Word) / 256)) ∧
    (CounterFits state_ldyAbsX_same_page 5 ∧ state_ldyAbsX_same_page.mem.read state_ldyAbsX_same_page.pc = 0xBC ∧ state_ldyAbsX_same_page.mem.read (state_ldyAbsX_same_page.pc + 1) = BitVec.ofNat 8 (BitVec.toNat (0x1280 : Word)) ∧ state_ldyAbsX_same_page.mem.read (state_ldyAbsX_same_page.pc + 2) = BitVec.ofNat 8 (BitVec.toNat (0x1280 : Word) / 256)) :=
  ⟨⟨witness_counter (by decide) _ (by decide), by decide⟩,
    ⟨witness_counter (by decide) _ (by decide), by decide⟩,
    ⟨witness_counter (by decide) _ (by decide), by decide⟩,
    ⟨witness_counter (by decide) _ (by decide), by decide⟩⟩

theorem witness_LoadAbsoluteY :
    (CounterFits state_ldaAbsY 5 ∧ state_ldaAbsY.mem.read state_ldaAbsY.pc = 0xB9 ∧ state_ldaAbsY.mem.read (state_ldaAbsY.pc + 1) = BitVec.ofNat 8 (BitVec.toNat (0x00FF : Word)) ∧ state_ldaAbsY.mem.read (state_ldaAbsY.pc + 2) = BitVec.ofNat 8 (BitVec.toNat (0x00FF : Word) / 256)) ∧
    (CounterFits state_ldxAbsY 5 ∧ state_ldxAbsY.mem.read state_ldxAbsY.pc = 0xBE ∧ state_ldxAbsY.mem.read (state_ldxAbsY.pc + 1) = BitVec.ofNat 8 (BitVec.toNat (0xFFF0 : Word)) ∧ state_ldxAbsY.mem.read (state_ldxAbsY.pc + 2) = BitVec.ofNat 8 (BitVec.toNat (0xFFF0 : Word) / 256)) :=
  ⟨⟨witness_counter (by decide) _ (by decide), by decide⟩,
    ⟨witness_counter (by decide) _ (by decide), by decide⟩⟩

theorem witness_LoadIndirectX :
    (CounterFits state_ldaIndX 6 ∧ state_ldaIndX.mem.read state_ldaIndX.pc = 0xA1 ∧ state_ldaIndX.mem.read (state_ldaIndX.pc + 1) = 0xFE) ∧
    (CounterFits state_ldaIndX_wraps 6 ∧ state_ldaIndX_wraps.mem.read state_ldaIndX_wraps.pc = 0xA1 ∧ state_ldaIndX_wraps.mem.read (state_ldaIndX_wraps.pc + 1) = 0xFF) :=
  ⟨⟨witness_counter (by decide) _ (by decide), by decide⟩,
    ⟨witness_counter (by decide) _ (by decide), by decide⟩⟩

theorem witness_LoadIndirectY :
    (CounterFits state_ldaIndY 6 ∧ state_ldaIndY.mem.read state_ldaIndY.pc = 0xB1 ∧ state_ldaIndY.mem.read (state_ldaIndY.pc + 1) = 0xFF) ∧
    (CounterFits state_ldaIndY_no_cross 6 ∧ state_ldaIndY_no_cross.mem.read state_ldaIndY_no_cross.pc = 0xB1 ∧ state_ldaIndY_no_cross.mem.read (state_ldaIndY_no_cross.pc + 1) = 0x02) :=
  ⟨⟨witness_counter (by decide) _ (by decide), by decide⟩,
    ⟨witness_counter (by decide) _ (by decide), by decide⟩⟩

theorem witness_BrkStub : CounterFits state_brk 7 ∧ state_brk.mem.read state_brk.pc = 0x00 :=
  ⟨witness_counter (by decide) _ (by decide), by decide⟩

theorem witness_NopAndUndefined :
    (CounterFits state_nop 2 ∧ state_nop.mem.read state_nop.pc = 0xEA) ∧
    (CounterFits state_undef 1 ∧ (Instr.undef (state_undef.mem.read state_undef.pc)).wellFormed = true) :=
  ⟨⟨witness_counter (by decide) _ (by decide), by decide⟩,
    ⟨witness_counter (by decide) _ (by decide), by decide⟩⟩

theorem witness_SetLoad : (0x00 : Byte) = 0x00 ∧ 128 ≤ (0x80 : Byte).toNat ∧ 128 ≤ (0xFF : Byte).toNat ∧
    (1 ≤ (0x01 : Byte).toNat ∧ (0x01 : Byte).toNat ≤ 127) ∧ (1 ≤ (0x7F : Byte).toNat ∧ (0x7F : Byte).toNat ≤ 127) ∧
    Reg.x ≠ Reg.a := by decide

theorem witness_LoadFrame : (Instr.ldaAbsX 0x20FE).dest = some .a ∧
    ∃ t, exec (.ldaAbsX 0x20FE) state_ldaAbsX = .next t := ⟨rfl, _, rfl⟩

theorem witness_ControlFrame : Instr.brk.dest = none ∧ (∃ t, exec .brk state_brk = .next t) ∧
    Instr.nop.dest = none ∧ (∃ t, exec .nop state_nop = .next t) ∧
    (Instr.undef 0x85).dest = none ∧ (∃ t, exec (.undef 0x85) state_undef = .next t) :=
  ⟨rfl, ⟨_, rfl⟩, rfl, ⟨_, rfl⟩, rfl, ⟨_, rfl⟩⟩

/-- LDX #$00 at 0x8000 with X = 9: the step answers, and X changes. -/
theorem witness_OnlyItsLoadWritesARegister :
    ∃ t, step state_ldxImm = .next t ∧
      decode [state_ldxImm.mem.read state_ldxImm.pc, state_ldxImm.mem.read (state_ldxImm.pc + 1),
        state_ldxImm.mem.read (state_ldxImm.pc + 2)] = .ok (.ldxImm 0x00, [0x00]) ∧
      t.reg .x ≠ state_ldxImm.reg .x := ⟨_, rfl, by decide, by decide⟩

theorem witness_NothingFaults : CounterFits state_ldaImm (3 + 6) := witness_counter (by decide) _ (by decide)

/-- The last count from which the narrowest counter allows a budget of 3. -/
theorem witness_counter_boundary : CounterFits { state_ldaImm with cycles := 2 ^ 32 - 10 } (3 + 6) :=
  counterFits_of_lt (by decide)

theorem witness_ExecuteFrame : CounterFits state_ldaImm (3 + 6) ∧ ∃ t, execute 3 state_ldaImm = .next t :=
  ⟨witness_counter (by decide) _ (by decide), _, rfl⟩

theorem witness_StepReadsOnlyPcXYAndMemory :
    ∃ s' t t', state_ldaIndX.pc = s'.pc ∧ state_ldaIndX.x = s'.x ∧ state_ldaIndX.y = s'.y ∧ state_ldaIndX.mem = s'.mem ∧
      state_ldaIndX.a ≠ s'.a ∧ CounterFits state_ldaIndX 7 ∧ CounterFits s' 7 ∧
      step state_ldaIndX = .next t ∧ step s' = .next t' :=
  ⟨{ state_ldaIndX with a := 0x55, sp := 0x00 }, _, _, rfl, rfl, rfl, rfl, by decide,
    witness_counter (by decide) _ (by decide), witness_counter (by decide) _ (by decide), rfl, rfl⟩

theorem witness_StepCost : CounterFits state_ldaIndY 7 := witness_counter (by decide) _ (by decide)

theorem witness_FetchByteAndRead_FetchWordAndPenalty : CounterFits state_ldaImm_at_top 1 ∧ CounterFits state_ldaImm_at_top 2 :=
  ⟨witness_counter (by decide) _ (by decide), witness_counter (by decide) _ (by decide)⟩

/-- The boundary of R113's wrap clause: 0xFFFF + 1 is exactly 65536. -/
theorem witness_PageCross : 65536 ≤ (0xFFFF : Word).toNat + (0x01 : Byte).toNat := by decide

theorem witness_ExecuteMeetsItsBudget : 1 ≤ 1 ∧ CounterFits state_brk (1 + 6) :=
  ⟨le_rfl, witness_counter (by decide) _ (by decide)⟩

theorem witness_CycleExactness : CounterFits state_brk 13 := witness_counter (by decide) _ (by decide)

theorem witness_ExecuteOneIsOneStep : state_ldaAbs.target = none ∧ CounterFits state_ldaAbs 7 :=
  ⟨by decide, witness_counter (by decide) _ (by decide)⟩

theorem witness_ExecuteZeroRunsNothing : state_ldaAbs.target = none ∧ CounterFits state_ldaAbs (0 + 6) :=
  ⟨by decide, witness_counter (by decide) _ (by decide)⟩

theorem witness_CyclesMonotonic :
    (CounterFits state_nop 7 ∧ ∃ t, step state_nop = .next t) ∧
    ((∀ memory, Command.reset ≠ .construct memory) ∧
      Command.reset.InRange state_nop ∧ ∃ t, runCommand .reset state_nop = .next t) ∧
    ((∀ memory, Command.execute 2 ≠ .construct memory) ∧
      (Command.execute 2).InRange state_nop ∧ ∃ t, runCommand (.execute 2) state_nop = .next t) :=
  ⟨⟨witness_counter (by decide) _ (by decide), _, rfl⟩, ⟨fun _ h => (nomatch h), inRange_reset (by decide), _, rfl⟩,
    fun _ h => (nomatch h), inRange_execute (by decide), _, rfl⟩

theorem witness_WriteByteThenRead_WriteWordThenRead_InvAtReset : state_ldaIndX.mem.wf = true ∧ (0x0000 : Word) ≠ 0xFFFF ∧
    (0x0001 : Word) ≠ 0xFFFF ∧ (0x0001 : Word) ≠ 0xFFFF + 1 ∧ ∃ t, step state_ldaIndX = .next t :=
  ⟨by decide, by decide, by decide, by decide, _, rfl⟩

/-- Two ways to build one memory: they read the same everywhere, and both are canonical. -/
theorem witness_CanonicalMemoryUnique :
    (Memory.write (Memory.write [] 0x0002 0x34) 0x0001 0x12).wf = true ∧
    (Memory.write (Memory.write [] 0x0001 0x12) 0x0002 0x34).wf = true ∧
    (∀ addr, (Memory.write (Memory.write [] 0x0002 0x34) 0x0001 0x12).read addr =
      (Memory.write (Memory.write [] 0x0001 0x12) 0x0002 0x34).read addr) := ⟨by decide, by decide, fun _ => rfl⟩

theorem witness_ResetCommand_ResetAgain : CounterFits state_ldaImm 6 ∧ CounterFits state_ldaImm 12 ∧ state_ldaImm.mem.wf = true :=
  ⟨witness_counter (by decide) _ (by decide), witness_counter (by decide) _ (by decide), by decide⟩

theorem witness_HostFlagWrite : Flag.d ≠ Flag.u ∧ (Flag.c ≠ Flag.d ∨ Flag.c = Flag.u) ∧ (Flag.u ≠ Flag.u ∨ Flag.u = Flag.u) := by
  decide

theorem witness_UnusedFlagStaysOne : state_ldaImm.p.u = true ∧ (∃ t, step state_ldaImm = .next t) ∧
    ((Command.setFlag .u false).InRange state_ldaImm ∧ ∃ t, runCommand (.setFlag .u false) state_ldaImm = .next t) ∧
    ((Command.execute 3).InRange state_ldaImm ∧ ∃ t, runCommand (.execute 3) state_ldaImm = .next t) :=
  ⟨by decide, ⟨_, rfl⟩, ⟨trivial, _, rfl⟩, inRange_execute (by decide), _, rfl⟩

theorem witness_CommandsComplete : State.reset.target = none ∧ (Command.execute 1000).InRange State.reset ∧
    Command.reset.InRange State.reset := ⟨by decide, inRange_execute (by decide), inRange_reset (by decide)⟩

theorem witness_StepKeepsInv : state_ldaIndX.Inv ∧ ∃ t, step state_ldaIndX = .next t :=
  ⟨⟨by decide, by decide⟩, _, rfl⟩

theorem witness_CommandsKeepInv : state_ldaIndX.Inv ∧ (Command.writeWord 0xFFFF 0xBEEF).Canonical ∧
    (Command.writeWord 0xFFFF 0xBEEF).InRange state_ldaIndX ∧
    (∃ t, runCommand (.writeWord 0xFFFF 0xBEEF) state_ldaIndX = .next t) ∧
    ((Command.execute 6).Canonical ∧ (Command.execute 6).InRange state_ldaIndX ∧
      ∃ t, runCommand (.execute 6) state_ldaIndX = .next t) ∧
    (Command.construct [(0x0010, 0x42)]).Canonical := ⟨⟨by decide, by decide⟩, trivial, trivial, ⟨_, rfl⟩,
    ⟨trivial, inRange_execute (by decide), _, rfl⟩, (by decide : Memory.wf [(0x0010, 0x42)] = true)⟩

end Sys2Proof.Tests
end

section
/-! Execute as a run of steps, and the completion of every host move (R11, R200). -/

namespace Sys2Proof.Machine

/-- Below the target the loop takes one step and goes on (R160). -/
theorem executeLoop_of_lt {s t : State} {target : Nat} (fuel : Nat) (htarget : s.target = some target)
    (hlt : s.cycles < target) (hstep : step s = .next t) : executeLoop (fuel + 1) s = executeLoop fuel t := by
  simp [executeLoop, htarget, hlt, hstep]

/-- The loop is over where no target above the count is set (R160). -/
theorem executeLoop_of_done {s : State} (fuel : Nat) (hdone : ¬ ∃ target, s.target = some target ∧ s.cycles < target) :
    executeLoop fuel s = .next s := by
  cases fuel with
  | zero => rfl
  | succ fuel =>
    cases htarget : s.target with
    | none => simp [executeLoop, htarget]
    | some target =>
      have hge : ¬ s.cycles < target := fun hlt => hdone ⟨target, htarget, hlt⟩
      simp [executeLoop, htarget, hge]

/-- The loop always answers, and what it answers is a run of as many steps as its fuel or fewer. No step can stop it:
each answers a next state (`step_next`, R200). -/
theorem executeLoop_eq_run (fuel : Nat) (s : State) :
    ∃ m t, m ≤ fuel ∧ Host.Core.run core m s = .next t ∧ executeLoop fuel s = .next t := by
  induction fuel generalizing s with
  | zero => exact ⟨0, s, le_rfl, rfl, rfl⟩
  | succ fuel ih =>
    by_cases hgo : ∃ target, s.target = some target ∧ s.cycles < target
    · obtain ⟨target, htarget, hlt⟩ := hgo
      obtain ⟨u, hstep, -⟩ := step_next s
      obtain ⟨m, t, hm, hrun, hloop⟩ := ih u
      exact ⟨m + 1, t, Nat.succ_le_succ hm, (run_succ m hstep).trans hrun,
        (executeLoop_of_lt fuel htarget hlt hstep).trans hloop⟩
    · exact ⟨0, s, Nat.zero_le _, rfl, executeLoop_of_done _ hgo⟩

/-- Execute(n) sets its target, runs at most n steps and drops the target. -/
theorem execute_eq_run (n : Nat) (s : State) :
    ∃ m t, m ≤ n ∧ Host.Core.run core m (beginExecute n s) = .next t ∧ execute n s = .next (endExecute t) := by
  obtain ⟨m, t, hm, hrun, hloop⟩ := executeLoop_eq_run n (beginExecute n s)
  exact ⟨m, t, hm, hrun, by simp [execute, hloop]⟩

/-- Settles O46, by cases on the move: Execute answers because its loop is a run of steps, and drops its target;
Construct starts with none; the other moves leave the target as it is. -/
theorem commandsComplete : Obligations.CommandsComplete := by
  intro c s _
  cases c with
  | construct memory => exact ⟨construct memory, rfl, fun _ => rfl⟩
  | reset => exact ⟨resetCommand s, rfl, fun h => (resetCommand_target s).trans h⟩
  | execute n =>
    obtain ⟨_, t, _, _, hexec⟩ := execute_eq_run n s
    exact ⟨endExecute t, hexec, fun _ => endExecute_target t⟩
  | setFlag f value => exact ⟨hostSetFlag f value s, rfl, fun h => (hostSetFlag_target f value s).trans h⟩
  | writeByte addr v => exact ⟨hostWriteByte addr v s, rfl, fun h => (hostWriteByte_target addr v s).trans h⟩
  | writeWord addr v => exact ⟨hostWriteWord addr v s, rfl, fun h => (hostWriteWord_target addr v s).trans h⟩

end Sys2Proof.Machine
end

section
/-! The fields of the state after an instruction's body, one equation each, over `exec_eq` (R27, R130). -/

namespace Sys2Proof.Machine

/-- A load: PC moves over the operand bytes, the cycles are charged, and the value is written back (R130). -/
theorem effect_of_load {i : Instr} {r : Reg} (hd : i.dest = some r) (s : State) :
    i.effect s = (s.after (i.length - 1) (i.bodyCycles s)).setLoad r (i.operandValue s) := by
  simp [Instr.effect, hd]

/-- BRK, NOP and UNDEF: the body charges cycles alone; there are no operand bytes for PC to move over (R164 to R166). -/
theorem effect_of_control {i : Instr} (hd : i.dest = none) (s : State) :
    i.effect s = s.after (i.length - 1) (i.bodyCycles s) := by
  have hlen : i.length = 1 := (length_eq_one_iff i).2 hd
  simp [Instr.effect, hd, hlen, State.tick, State.after]

@[simp] theorem effect_pc (i : Instr) (s : State) : (i.effect s).pc = s.pc + BitVec.ofNat 16 (i.length - 1) := by
  cases hd : i.dest <;> simp [effect_of_control, effect_of_load, hd]

@[simp] theorem effect_cycles (i : Instr) (s : State) : (i.effect s).cycles = s.cycles + i.bodyCycles s := by
  cases hd : i.dest <;> simp [effect_of_control, effect_of_load, hd]

@[simp] theorem effect_sp (i : Instr) (s : State) : (i.effect s).sp = s.sp := by
  cases hd : i.dest <;> simp [effect_of_control, effect_of_load, hd]

@[simp] theorem effect_target (i : Instr) (s : State) : (i.effect s).target = s.target := by
  cases hd : i.dest <;> simp [effect_of_control, effect_of_load, hd]

@[simp] theorem effect_mem (i : Instr) (s : State) : (i.effect s).mem = s.mem := by
  cases hd : i.dest <;> simp [effect_of_control, effect_of_load, hd]

/-- A loaded register holds the operand's value. -/
theorem effect_reg_dest {i : Instr} {r : Reg} (hd : i.dest = some r) (s : State) :
    (i.effect s).reg r = i.operandValue s := by
  rw [effect_of_load hd, setLoad_reg_same]

/-- A register that is not the destination stays (R21, R22, R23). -/
theorem effect_reg_other {i : Instr} {q : Reg} (hq : i.dest ≠ some q) (s : State) : (i.effect s).reg q = s.reg q := by
  cases hd : i.dest with
  | none => rw [effect_of_control hd, after_reg]
  | some r =>
    have hne : q ≠ r := fun h => hq (h ▸ hd)
    rw [effect_of_load hd, setLoad_reg_other _ _ _ _ hne, after_reg]

/-- The flags after a load are those of the value loaded (R130). -/
theorem effect_p_of_load {i : Instr} {r : Reg} (hd : i.dest = some r) (s : State) :
    (i.effect s).p = s.p.loaded (i.operandValue s) := by
  rw [effect_of_load hd, setLoad_p, after_p]

theorem zeroFlag_eq_decide (v : Byte) : zeroFlag v = decide (v = 0x00) := rfl

/-- A load writes Z and N alone (R130). -/
theorem get_loaded_other (p : Flags) (v : Byte) {f : Flag} (hz : f ≠ .z) (hn : f ≠ .n) :
    (p.loaded v).get f = p.get f := by
  cases f with
  | z => exact absurd rfl hz
  | n => exact absurd rfl hn
  | _ => rfl

theorem effect_flag_other (i : Instr) (s : State) {f : Flag} (hz : f ≠ .z) (hn : f ≠ .n) :
    (i.effect s).p.get f = s.p.get f := by
  cases hd : i.dest with
  | none => rw [effect_of_control hd, after_p]
  | some r => rw [effect_p_of_load hd, get_loaded_other _ _ hz hn]

/-- What a body answers is its effect. -/
theorem eq_effect_of_exec {i : Instr} {s t : State} (h : exec i s = .next t) : t = i.effect s := by
  rw [exec_eq] at h
  exact (Host.Outcome.next.inj h).symm

/-- A step is the effect of the instruction at PC after the opcode fetch (R161). -/
theorem step_eq_effect (s : State) : step s = .next ((instrAt s).effect (s.after 1 1)) :=
  (step_eq s).trans (exec_eq _ _)

theorem eq_effect_of_step {s t : State} (h : step s = .next t) : t = (instrAt s).effect (s.after 1 1) :=
  eq_effect_of_exec h

/-- Settles O21, by the fields of a load's effect. -/
theorem loadFrame : Obligations.LoadFrame := by
  intro i r s t hd hexec
  obtain rfl := eq_effect_of_exec hexec
  have hother : ∀ q, q ≠ r → i.dest ≠ some q := fun q hq h => hq (Option.some.inj (h.symm.trans hd))
  refine ⟨fun q hq => effect_reg_other (hother q hq) s, effect_sp i s, effect_target i s,
    fun f hz hn => effect_flag_other i s hz hn, ?_, ?_, fun addr => by rw [effect_mem]⟩
  · rw [effect_p_of_load hd, effect_reg_dest hd, loaded_z, zeroFlag_eq_decide]
  · rw [effect_p_of_load hd, effect_reg_dest hd, loaded_n, negativeFlag]

/-- Bytes that decode, decode to the instruction of their first three. -/
theorem decodeBytes_of_decode {op b1 b2 : Byte} {i : Instr} {rest : List Byte}
    (h : decode [op, b1, b2] = .ok (i, rest)) : i = decodeBytes op b1 b2 := by
  simp only [decode] at h
  split at h
  · cases h
  · exact (congrArg Prod.fst (Except.ok.inj h)).symm

/-- Settles O23: a register that is not the destination keeps its value. -/
theorem onlyItsLoadWritesARegister : Obligations.OnlyItsLoadWritesARegister := by
  intro s t r i rest hstep hdecode hchanged
  obtain rfl : i = instrAt s := decodeBytes_of_decode hdecode
  by_contra hd
  apply hchanged
  rw [eq_effect_of_step hstep, effect_reg_other hd, after_reg]

/-- Settles O26: the opcode fetch moves PC by 1, the body by the operand bytes. -/
theorem pcAdvance : Obligations.PcAdvance := by
  intro s
  refine ⟨BitVec.toNat_add _ _, _, step_eq_effect s, ?_⟩
  have hlen : 1 ≤ (instrAt s).length := one_le_length _
  simp only [effect_pc, after_pc, BitVec.toNat_add, BitVec.toNat_ofNat]
  omega

end Sys2Proof.Machine
end

section
/-! What an instruction looks at: PC, X, Y and memory (R162). -/

namespace Sys2Proof.Machine

/-- The parts of the state that decide what an instruction does are the same in two states. -/
structure SameInputs (s s' : State) : Prop where
  pc : s.pc = s'.pc
  x : s.x = s'.x
  y : s.y = s'.y
  mem : s.mem = s'.mem

theorem SameInputs.after {s s' : State} (h : SameInputs s s') (b c : Nat) : SameInputs (s.after b c) (s'.after b c) :=
  ⟨by simp [h.pc], h.x, h.y, h.mem⟩

theorem SameInputs.instrAt_eq {s s' : State} (h : SameInputs s s') : instrAt s = instrAt s' := by
  simp only [instrAt, h.pc, h.mem]

theorem SameInputs.operandValue_eq {s s' : State} (h : SameInputs s s') (i : Instr) :
    i.operandValue s = i.operandValue s' := by
  simp only [Instr.operandValue, h.x, h.y, h.mem]

theorem SameInputs.bodyCycles_eq {s s' : State} (h : SameInputs s s') (i : Instr) :
    i.bodyCycles s = i.bodyCycles s' := by
  simp only [Instr.bodyCycles, h.x, h.y, h.mem]

/-- A register alike before a body is alike after it: it is loaded with one value or kept. -/
theorem SameInputs.effect_reg_eq {s s' : State} (h : SameInputs s s') (i : Instr) {q : Reg} (hq : s.reg q = s'.reg q) :
    (i.effect s).reg q = (i.effect s').reg q := by
  by_cases hd : i.dest = some q
  · rw [effect_reg_dest hd, effect_reg_dest hd, h.operandValue_eq]
  · rw [effect_reg_other hd, effect_reg_other hd, hq]

theorem SameInputs.effect {s s' : State} (h : SameInputs s s') (i : Instr) : SameInputs (i.effect s) (i.effect s') where
  pc := by rw [effect_pc, effect_pc, h.pc]
  x := h.effect_reg_eq i (q := .x) h.x
  y := h.effect_reg_eq i (q := .y) h.y
  mem := by rw [effect_mem, effect_mem, h.mem]

/-- Settles O25: the instruction, its operand value and its cycles are functions of PC, X, Y and memory. -/
theorem stepReadsOnlyPcXYAndMemory : Obligations.StepReadsOnlyPcXYAndMemory := by
  intro s t s' t' hpc hx hy hmem _ _ hstep hstep'
  have hsame : SameInputs s s' := ⟨hpc, hx, hy, hmem⟩
  have hfetched : SameInputs (s.after 1 1) (s'.after 1 1) := hsame.after 1 1
  have hinstr : instrAt s = instrAt s' := hsame.instrAt_eq
  obtain rfl := eq_effect_of_step hstep
  obtain rfl := eq_effect_of_step hstep'
  rw [← hinstr]
  have hnext := hfetched.effect (instrAt s)
  refine ⟨rfl, hnext.pc, hnext.x, hnext.y, hnext.mem, ?_, fun r hd => ⟨?_, ?_, ?_⟩⟩
  · simp only [effect_cycles, after_cycles, hfetched.bodyCycles_eq]
    omega
  · rw [effect_reg_dest hd, effect_reg_dest hd, hfetched.operandValue_eq]
  · rw [effect_p_of_load hd, effect_p_of_load hd, loaded_z, loaded_z, hfetched.operandValue_eq]
  · rw [effect_p_of_load hd, effect_p_of_load hd, loaded_n, loaded_n, hfetched.operandValue_eq]

end Sys2Proof.Machine
end

section
/-! What every step keeps, a run of steps and an Execute keep: SP, memory, the flags but Z and N, and a
lower bound of the count (R25, R28, R38, R58). -/

namespace Sys2Proof.Machine

/-- What every step keeps, a run of steps keeps. -/
theorem run_induction {P : State → Prop} (hP : ∀ u v, P u → step u = .next v → P v) {k : Nat} {s t : State}
    (hs : P s) (hrun : Host.Core.run core k s = .next t) : P t := by
  induction k generalizing s with
  | zero => exact Host.Outcome.next.inj hrun ▸ hs
  | succ k ih =>
    obtain ⟨u, hstep, -⟩ := step_next s
    exact ih (hP s u hs hstep) (run_succ k hstep ▸ hrun)

/-- What setting the target, every step and dropping the target keep, Execute keeps. -/
theorem execute_induction {P : State → Prop} (hP : ∀ u v, P u → step u = .next v → P v)
    (hend : ∀ u, P u → P (endExecute u)) {n : Nat} {s t : State} (hs : P (beginExecute n s))
    (hexec : execute n s = .next t) : P t := by
  obtain ⟨m, u, -, hrun, heq⟩ := execute_eq_run n s
  obtain rfl : endExecute u = t := Host.Outcome.next.inj (heq.symm.trans hexec)
  exact hend u (run_induction hP hs hrun)

/-- What no instruction changes: SP, memory, and every flag but Z and N (R25, R28, R58). -/
structure EngineKeeps (s t : State) : Prop where
  sp : t.sp = s.sp
  mem : t.mem = s.mem
  flag : ∀ f, f ≠ .z → f ≠ .n → t.p.get f = s.p.get f

theorem step_engineKeeps {s t : State} (h : step s = .next t) : EngineKeeps s t := by
  obtain rfl := eq_effect_of_step h
  exact ⟨effect_sp _ _, effect_mem _ _, fun f hz hn => effect_flag_other _ _ hz hn⟩

theorem EngineKeeps.trans {s t u : State} (h : EngineKeeps s t) (h' : EngineKeeps t u) : EngineKeeps s u :=
  ⟨h'.sp.trans h.sp, h'.mem.trans h.mem, fun f hz hn => (h'.flag f hz hn).trans (h.flag f hz hn)⟩

theorem execute_engineKeeps {n : Nat} {s t : State} (h : execute n s = .next t) : EngineKeeps s t :=
  execute_induction (P := EngineKeeps s) (fun _ _ hu hstep => hu.trans (step_engineKeeps hstep))
    (fun _ hu => ⟨hu.sp, hu.mem, hu.flag⟩) ⟨rfl, rfl, fun _ _ _ => rfl⟩ h

/-- Settles O24: every step of the run keeps SP, memory and the other flags. -/
theorem executeFrame : Obligations.ExecuteFrame := by
  intro n s t _ hexec
  have hkeeps := execute_engineKeeps hexec
  exact ⟨hkeeps.sp, hkeeps.flag, fun addr => by rw [hkeeps.mem]⟩

theorem step_cycles_lt {s t : State} (h : step s = .next t) : s.cycles < t.cycles := by
  obtain rfl := eq_effect_of_step h
  simp only [effect_cycles, after_cycles]
  omega

/-- Execute does not lower the count, since no step does. -/
theorem execute_cycles_le {n : Nat} {s t : State} (h : execute n s = .next t) : s.cycles ≤ t.cycles :=
  execute_induction (P := fun u => s.cycles ≤ u.cycles) (fun _ _ hu hstep => hu.trans (step_cycles_lt hstep).le)
    (fun _ hu => hu) le_rfl h

/-- Settles O35: a step charges its opcode fetch at least, Execute is a run of steps, Reset adds cycles, and the other
moves leave the count as it is. -/
theorem cyclesMonotonic : Obligations.CyclesMonotonic := by
  refine ⟨fun s t _ hstep => step_cycles_lt hstep, fun c s t hc _ hrun => ?_⟩
  cases c with
  | construct memory => exact absurd rfl (hc memory)
  | execute n => exact execute_cycles_le hrun
  | reset =>
    obtain rfl := Host.Outcome.next.inj hrun
    exact Nat.le_add_right _ _
  | setFlag f value | writeByte addr v | writeWord addr v =>
    obtain rfl := Host.Outcome.next.inj hrun
    exact le_rfl

end Sys2Proof.Machine
end

section
/-! The states after Construct and Reset (R220, R224), and the invariant: canonical memory, and U = 1 (R34). -/

namespace Sys2Proof.Machine

/-- The invariant speaks of memory and U, which no instruction changes. -/
theorem EngineKeeps.inv {s t : State} (h : EngineKeeps s t) (hs : s.Inv) : t.Inv := by
  obtain ⟨hwf, hu⟩ := hs
  have hu' : t.p.u = s.p.u := h.flag .u nofun nofun
  exact ⟨h.mem ▸ hwf, hu'.trans hu⟩

/-- Settles O48: no instruction changes memory or U. -/
theorem stepKeepsInv : Obligations.StepKeepsInv :=
  fun _ _ hs hstep => (step_engineKeeps hstep).inv hs

/-- Settles O40: both are one record (R220). -/
theorem constructState : Obligations.ConstructState := fun _ => rfl

/-- Settles O43: the vector of an empty memory is zero. -/
theorem resetStateIsConstructThenReset : Obligations.ResetStateIsConstructThenReset :=
  ⟨rfl, rfl, rfl, rfl, fun _ => rfl⟩

theorem construct_inv {memory : Memory} (h : memory.wf = true) : (construct memory).Inv := ⟨h, rfl⟩

/-- Settles O47: the memory of zeros is the empty list, and both set U (R34, R51, R220). -/
theorem invAtReset : Obligations.InvAtReset := ⟨⟨rfl, rfl⟩, fun _ h => construct_inv h⟩

/-- Settles O49, by cases on the move: Execute keeps what every step keeps, Reset writes U with 1, a flag write leaves
U, and a memory write keeps the canonical form. -/
theorem commandsKeepInv : Obligations.CommandsKeepInv := by
  intro c s t hs hcanonical _ hrun
  obtain ⟨hwf, hu⟩ := hs
  cases c with
  | execute n => exact (execute_engineKeeps hrun).inv ⟨hwf, hu⟩
  | construct memory =>
    obtain rfl := Host.Outcome.next.inj hrun
    exact construct_inv hcanonical
  | reset =>
    obtain rfl := Host.Outcome.next.inj hrun
    exact ⟨hwf, rfl⟩
  | setFlag f value =>
    obtain rfl := Host.Outcome.next.inj hrun
    exact ⟨hwf, (set_u s.p f value).trans hu⟩
  | writeByte addr v =>
    obtain rfl := Host.Outcome.next.inj hrun
    exact ⟨wf_write hwf addr v, hu⟩
  | writeWord addr v =>
    obtain rfl := Host.Outcome.next.inj hrun
    exact ⟨wf_writeWord hwf addr v, hu⟩

end Sys2Proof.Machine
end

section
/-! Memory: words are two bytes, low byte first (R54, R55); a read after a write (R52, R53); and two canonical lists
that read the same are one list (R50, R51). -/

namespace Sys2Proof.Machine

/-! ### Words -/

/-- The spec's `wrap16(addr + 1)` (R8) is the addition of words. -/
theorem ofNat_toNat_add_one_mod (addr : Word) : BitVec.ofNat 16 ((addr.toNat + 1) % 65536) = addr + 1 :=
  BitVec.eq_of_toNat_eq (by simp)

theorem add_one_ne_self (addr : Word) : addr + 1 ≠ addr := by bv_omega

theorem toNat_readWord (m : Memory) (addr : Word) :
    (m.readWord addr).toNat = (m.read (addr + 1)).toNat * 256 + (m.read addr).toNat :=
  toNat_concat _ _

/-- Settles O36, by the value of `concat`; 0x0000 is 0xFFFF + 1. -/
theorem readWordLittleEndian : Obligations.ReadWordLittleEndian := by
  refine ⟨fun m addr => ?_, fun m => toNat_readWord m 0xFFFF⟩
  rw [ofNat_toNat_add_one_mod, toNat_readWord]

/-! ### Read after write -/

theorem read_write {m : Memory} (hm : m.wf = true) (addr b : Word) (v : Byte) :
    (m.write addr v).read b = if b = addr then v else m.read b := by
  simp only [Memory.read, Memory.write, readAt_writeAt hm, BitVec.toNat_inj]

/-- Settles O37. -/
theorem writeByteThenRead : Obligations.WriteByteThenRead :=
  fun _ addr b v hm => read_write hm addr b v

/-- The high byte is written second, and the two addresses differ, so each byte of the word stays where it is put. -/
theorem read_writeWord {m : Memory} (hm : m.wf = true) (addr v b : Word) :
    (m.writeWord addr v).read b =
      if b = addr + 1 then hiByte v else if b = addr then loByte v else m.read b := by
  rw [Memory.writeWord, read_write (wf_write hm _ _), read_write hm]

theorem read_writeWord_low {m : Memory} (hm : m.wf = true) (addr v : Word) :
    (m.writeWord addr v).read addr = loByte v := by
  rw [read_writeWord hm, if_neg (add_one_ne_self addr).symm, if_pos rfl]

theorem read_writeWord_high {m : Memory} (hm : m.wf = true) (addr v : Word) :
    (m.writeWord addr v).read (addr + 1) = hiByte v := by
  rw [read_writeWord hm, if_pos rfl]

theorem read_writeWord_other {m : Memory} (hm : m.wf = true) (addr v : Word) {b : Word} (hlow : b ≠ addr)
    (hhigh : b ≠ addr + 1) : (m.writeWord addr v).read b = m.read b := by
  rw [read_writeWord hm, if_neg hhigh, if_neg hlow]

theorem readWord_writeWord {m : Memory} (hm : m.wf = true) (addr v : Word) :
    (m.writeWord addr v).readWord addr = v := by
  rw [Memory.readWord, read_writeWord_high hm, read_writeWord_low hm, concat_hiByte_loByte]

/-- Settles O38, by the byte written at each address and by what a step keeps. -/
theorem writeWordThenRead : Obligations.WriteWordThenRead := by
  intro m addr v hm
  refine ⟨readWord_writeWord hm addr v, ?_, ?_, fun b => read_writeWord_other hm addr v,
    fun _ _ hstep => (step_engineKeeps hstep).mem⟩
  · rw [read_writeWord_low hm, toNat_loByte]
  · rw [ofNat_toNat_add_one_mod, read_writeWord_high hm, toNat_hiByte]

/-! ### The canonical form is unique -/

theorem wfFrom_cons {low k : Nat} {v : Byte} {rest : Memory} :
    Memory.wfFrom low ((k, v) :: rest) = true ↔
      low ≤ k ∧ k < Params.memorySize ∧ v ≠ Params.initialByte ∧ rest.wfFrom (k + 1) = true := by
  simp [Memory.wfFrom, and_assoc]

theorem readAt_cons_same (k : Nat) (v : Byte) (rest : Memory) : Memory.readAt ((k, v) :: rest) k = v := by
  simp [Memory.readAt]

theorem readAt_cons_other {k a : Nat} (h : a ≠ k) (v : Byte) (rest : Memory) :
    Memory.readAt ((k, v) :: rest) a = rest.readAt a := by
  simp [Memory.readAt, h.symm]

/-- An address that does not hold the initial byte is not below the first one listed. -/
theorem low_le_of_readAt_ne {low a : Nat} {m : Memory} (hm : m.wfFrom low = true)
    (ha : m.readAt a ≠ Params.initialByte) : low ≤ a :=
  Nat.le_of_not_lt fun hlt => ha (readAt_below hlt hm)

/-- Two canonical lists that read the same list the same addresses: the first address of each does not hold the initial
byte, so it is not below the first address of the other. -/
theorem eq_of_readAt_eq {low low' : Nat} {m m' : Memory} (hm : m.wfFrom low = true) (hm' : m'.wfFrom low' = true)
    (h : ∀ a < Params.memorySize, m.readAt a = m'.readAt a) : m = m' := by
  induction m generalizing low low' m' with
  | nil =>
    cases m' with
    | nil => rfl
    | cons c' rest' =>
      obtain ⟨k', v'⟩ := c'
      obtain ⟨-, hk', hv', -⟩ := wfFrom_cons.1 hm'
      exact absurd ((readAt_cons_same k' v' rest').symm.trans (h k' hk').symm) hv'
  | cons c rest ih =>
    obtain ⟨k, v⟩ := c
    obtain ⟨-, hk, hv, hrest⟩ := wfFrom_cons.1 hm
    have hreadk : m'.readAt k = v := (h k hk).symm.trans (readAt_cons_same k v rest)
    cases m' with
    | nil => exact absurd hreadk.symm hv
    | cons c' rest' =>
      obtain ⟨k', v'⟩ := c'
      obtain ⟨-, hk', hv', hrest'⟩ := wfFrom_cons.1 hm'
      have hreadk' : Memory.readAt ((k, v) :: rest) k' = v' := (h k' hk').trans (readAt_cons_same k' v' rest')
      have hle : k ≤ k' := low_le_of_readAt_ne (wfFrom_cons.2 ⟨le_rfl, hk, hv, hrest⟩) (hreadk'.trans_ne hv')
      have hge : k' ≤ k := low_le_of_readAt_ne (wfFrom_cons.2 ⟨le_rfl, hk', hv', hrest'⟩) (hreadk.trans_ne hv)
      obtain rfl := le_antisymm hle hge
      obtain rfl : v' = v := (readAt_cons_same k v' rest').symm.trans hreadk
      have htail : ∀ a < Params.memorySize, Memory.readAt rest a = Memory.readAt rest' a := by
        intro a ha
        by_cases hak : a = k
        · subst hak
          rw [readAt_below (Nat.lt_succ_self a) hrest, readAt_below (Nat.lt_succ_self a) hrest']
        · simpa only [readAt_cons_other hak] using h a ha
      rw [ih hrest hrest' htail]

/-- Settles O39: an address below 65536 is a word. -/
theorem canonicalMemoryUnique : Obligations.CanonicalMemoryUnique := by
  intro m m' hm hm' hread
  refine eq_of_readAt_eq hm hm' fun a ha => ?_
  have hword : (BitVec.ofNat 16 a).toNat = a := (BitVec.toNat_ofNat a 16).trans (Nat.mod_eq_of_lt ha)
  simpa only [Memory.read, hword] using hread (BitVec.ofNat 16 a)

end Sys2Proof.Machine
end

section
/-! The decoder and the encoder undo each other, and what the opcode byte alone decides (R70, R71, R74, R76, R78). -/

namespace Sys2Proof

/-! ### The rows of the table and the bytes outside it -/

/-- What a row of R74 says agrees with the instruction it builds, whatever the operand bytes. -/
structure OpcodeRow.Agrees (r : OpcodeRow) : Prop where
  wellFormed : ∀ b1 b2, (r.build b1 b2).wellFormed = true
  length : ∀ b1 b2, (r.build b1 b2).length = r.length
  encode : ∀ b1 b2, encode (r.build b1 b2) = [r.opcode, b1, b2].take r.length

/-- A row of length 3 splits its address into the two bytes it was built from; the others hold the bytes themselves. -/
theorem agrees_of_mem_opcodeTable : ∀ r ∈ opcodeTable, r.Agrees := by
  simp only [opcodeTable, opcodeTableControlLda, opcodeTableLdxLdy, List.cons_append, List.nil_append,
    List.forall_mem_cons, List.not_mem_nil, false_implies, implies_true, and_true]
  and_intros <;>
    exact ⟨fun _ _ => rfl, fun _ _ => rfl, fun _ _ => by simp [encode, Instr.opcode, Instr.operandBytes]⟩

theorem opcodeRow_eq_none_iff (op : Byte) : opcodeRow op = none ↔ op ∉ opcodeTable.map OpcodeRow.opcode := by
  simp [opcodeRow, List.find?_eq_none]

theorem wellFormed_undef_iff (op : Byte) : (Instr.undef op).wellFormed = true ↔ opcodeRow op = none := by
  simp [Instr.wellFormed, isDefinedOpcode]

/-! ### Encoding what was decoded -/

theorem wellFormed_decodeBytes (op b1 b2 : Byte) : (decodeBytes op b1 b2).wellFormed = true := by
  obtain ⟨r, hr, -, -, heq⟩ | ⟨hnone, heq⟩ := decodeBytes_cases op b1 b2
  · rw [heq, (agrees_of_mem_opcodeTable r hr).wellFormed]
  · rw [heq, wellFormed_undef_iff, hnone]

theorem length_decodeBytes (op b1 b2 : Byte) : (decodeBytes op b1 b2).length = lengthOfOpcode op := by
  obtain ⟨r, hr, -, hrow, heq⟩ | ⟨hnone, heq⟩ := decodeBytes_cases op b1 b2
  · rw [heq, (agrees_of_mem_opcodeTable r hr).length, lengthOfOpcode, hrow]
  · rw [heq, lengthOfOpcode, hnone, Instr.length]

theorem encode_decodeBytes (op b1 b2 : Byte) :
    encode (decodeBytes op b1 b2) = [op, b1, b2].take (decodeBytes op b1 b2).length := by
  obtain ⟨r, hr, rfl, -, heq⟩ | ⟨-, heq⟩ := decodeBytes_cases op b1 b2
  · have hagrees := agrees_of_mem_opcodeTable r hr
    rw [heq, hagrees.encode, hagrees.length]
  · rw [heq]
    rfl

/-! ### Decoding an encoding -/

/-- The bytes of an encoding, read as an opcode and two bytes after it, are the instruction: an address is put together
from its two bytes, and a well-formed UNDEF has no row. -/
theorem decodeBytes_operandBytes {i : Instr} (hi : i.wellFormed = true) (rest : List Byte) :
    decodeBytes i.opcode ((i.operandBytes ++ rest).getD 0 0) ((i.operandBytes ++ rest).getD 1 0) = i := by
  cases i with
  | undef op =>
    have hnone : opcodeRow op = none := (wellFormed_undef_iff op).1 hi
    simp [decodeBytes, Instr.opcode, hnone]
  | ldaAbs w | ldaAbsX w | ldaAbsY w | ldxAbs w | ldxAbsY w | ldyAbs w | ldyAbsX w =>
    exact congrArg _ (concat_hiByte_loByte w)
  | _ => rfl

theorem lengthOfOpcode_opcode {i : Instr} (hi : i.wellFormed = true) : lengthOfOpcode i.opcode = i.length := by
  rw [← length_decodeBytes, decodeBytes_operandBytes hi []]

theorem length_operandBytes (i : Instr) : i.operandBytes.length = i.length - 1 := by
  cases i <;> rfl

/-- A list that holds the instruction its first byte begins decodes to it. -/
theorem decode_cons {op : Byte} {bytes : List Byte} (h : lengthOfOpcode op - 1 ≤ bytes.length) :
    decode (op :: bytes) =
      .ok (decodeBytes op (bytes.getD 0 0) (bytes.getD 1 0), bytes.drop (lengthOfOpcode op - 1)) :=
  if_neg (Nat.not_lt.2 h)

theorem decode_encode_append {i : Instr} (hi : i.wellFormed = true) (rest : List Byte) :
    decode (encode i ++ rest) = .ok (i, rest) := by
  have hextra : lengthOfOpcode i.opcode - 1 = i.operandBytes.length := by
    rw [lengthOfOpcode_opcode hi, length_operandBytes]
  have henough : lengthOfOpcode i.opcode - 1 ≤ (i.operandBytes ++ rest).length := by
    rw [hextra, List.length_append]
    exact Nat.le_add_right _ _
  rw [encode, List.cons_append, decode_cons henough, decodeBytes_operandBytes hi, hextra, List.drop_left]

/-- Settles O2: the opcode byte gives the length back, the operand bytes give the operand back. -/
theorem decodeOfEncode : Obligations.DecodeOfEncode :=
  fun _ rest hi => decode_encode_append hi rest

/-- Settles O3: a byte decodes by its row, which agrees with what it builds, or as UNDEF, which is its own one byte. -/
theorem encodeOfDecode : Obligations.EncodeOfDecode :=
  fun op b1 b2 => ⟨wellFormed_decodeBytes op b1 b2, encode_decodeBytes op b1 b2⟩

/-! ### What the opcode byte decides -/

/-- An instruction built by a row is well-formed, so a byte with a row never decodes to UNDEF of itself. -/
theorem decodeBytes_eq_undef_iff (op b1 b2 : Byte) :
    decodeBytes op b1 b2 = .undef op ↔ op ∉ opcodeTable.map OpcodeRow.opcode := by
  rw [← opcodeRow_eq_none_iff]
  constructor
  · intro h
    exact (wellFormed_undef_iff op).1 (h ▸ wellFormed_decodeBytes op b1 b2)
  · intro hnone
    simp [decodeBytes, hnone]

/-- A list of bytes without repetition leaves out the others of the 256: those it holds are its own values. -/
theorem length_filter_not_mem {ops : List Byte} (hops : ops.Nodup) :
    ((List.range 256).filter fun k => BitVec.ofNat 8 k ∉ ops).length + ops.length = 256 := by
  have hperm : ((List.range 256).filter fun k => BitVec.ofNat 8 k ∈ ops).Perm (ops.map BitVec.toNat) := by
    refine (List.perm_ext_iff_of_nodup (List.nodup_range.filter _) (hops.map fun _ _ => BitVec.eq_of_toNat_eq)).2 ?_
    intro k
    simp only [List.mem_filter, List.mem_range, decide_eq_true_eq, List.mem_map]
    constructor
    · rintro ⟨hk, hmem⟩
      exact ⟨_, hmem, (BitVec.toNat_ofNat k 8).trans (Nat.mod_eq_of_lt hk)⟩
    · rintro ⟨b, hmem, rfl⟩
      exact ⟨b.isLt, by rwa [BitVec.ofNat_toNat, BitVec.setWidth_eq]⟩
  have hsplit := List.length_eq_length_filter_add (l := List.range 256) fun k => decide (BitVec.ofNat 8 k ∈ ops)
  rw [hperm.length_eq, List.length_map, List.length_range] at hsplit
  simp only [decide_not]
  omega

/-- Settles O4: the 20 bytes are the opcodes of the table's rows, all different, so 256 - 20 bytes are left. -/
theorem undefinedOpcodes : Obligations.UndefinedOpcodes := by
  refine ⟨decodeBytes_eq_undef_iff, ?_⟩
  have hnodup : (opcodeTable.map OpcodeRow.opcode).Nodup := List.pairwise_map.2 opcodeTable_unambiguous
  have hcount := length_filter_not_mem hnodup
  rw [List.length_map, opcodeTable_has_20_rows] at hcount
  simp only [decodeBytes_eq_undef_iff]
  exact Nat.add_right_cancel hcount

/-- The seven absolute forms of R74. -/
def absoluteOpcodes : List Byte := [0xAD, 0xBD, 0xB9, 0xAE, 0xBE, 0xAC, 0xBC]

/-- The eleven other loads of R74. -/
def byteOperandOpcodes : List Byte := [0xA9, 0xA5, 0xB5, 0xA1, 0xB1, 0xA2, 0xA6, 0xB6, 0xA0, 0xA4, 0xB4]

/-- The length column of the table, row by row. -/
theorem length_of_mem_opcodeTable : ∀ r ∈ opcodeTable, r.length =
    if r.opcode ∈ absoluteOpcodes then 3 else if r.opcode ∈ byteOperandOpcodes then 2 else 1 := by
  decide

theorem loadOpcodes_subset_opcodeTable :
    absoluteOpcodes ++ byteOperandOpcodes ⊆ opcodeTable.map OpcodeRow.opcode := by
  decide

theorem lengthOfOpcode_eq (op : Byte) : lengthOfOpcode op =
    if op ∈ absoluteOpcodes then 3 else if op ∈ byteOperandOpcodes then 2 else 1 := by
  obtain ⟨r, hr, rfl, hrow, -⟩ | ⟨hnone, -⟩ := decodeBytes_cases op 0 0
  · rw [lengthOfOpcode, hrow]
    exact length_of_mem_opcodeTable r hr
  · have hout : op ∉ absoluteOpcodes ++ byteOperandOpcodes :=
      fun hmem => (opcodeRow_eq_none_iff op).1 hnone (loadOpcodes_subset_opcodeTable hmem)
    obtain ⟨habs, hbyte⟩ := not_or.1 (List.mem_append.not.1 hout)
    rw [lengthOfOpcode, hnone, if_neg habs, if_neg hbyte]

/-- Settles O5: a defined byte has the length of its row, an undefined one is in neither list and has length 1. -/
theorem lengthByOpcode : Obligations.LengthByOpcode :=
  fun op b1 b2 => (length_decodeBytes op b1 b2).trans (lengthOfOpcode_eq op)

/-- Settles O1: each string is the encoding of its instruction, one of them with a byte after it. -/
theorem wordsDecodeAsTabled : Obligations.WordsDecodeAsTabled :=
  ⟨decode_encode_append (i := .brk) rfl [], decode_encode_append (i := .nop) rfl [],
    decode_encode_append (i := .ldaImm 0x80) rfl [], decode_encode_append (i := .ldaAbsX 0x20FE) rfl [],
    decode_encode_append (i := .ldaIndX 0xFE) rfl [], decode_encode_append (i := .ldxZpY 0xFF) rfl [],
    decode_encode_append (i := .ldxAbsY 0xFFF0) rfl [], decode_encode_append (i := .ldyZpX 0x80) rfl [],
    decode_encode_append (i := .ldyAbs 0x8000) rfl [], decode_encode_append (i := .undef 0x85) rfl [0x10]⟩

end Sys2Proof

namespace Sys2Proof.Machine

/-- Settles O6: the step runs the instruction at PC after the opcode fetch, which is what the three bytes decode to. -/
theorem stepRunsDecoded : Obligations.StepRunsDecoded := by
  intro s i rest hdecode
  obtain rfl : i = instrAt s := decodeBytes_of_decode hdecode
  exact step_eq s

end Sys2Proof.Machine
end

section
/-! Page crossing as arithmetic on addresses (R113). -/

namespace Sys2Proof.Machine

theorem pageCross_iff (base ea : Word) : pageCross base ea = true ↔ base.toNat / 256 ≠ ea.toNat / 256 := by
  rw [pageCross, bne_iff_ne, ne_eq, ← BitVec.toNat_inj, toNat_hiByte, toNat_hiByte]

theorem pageCross_self (base : Word) : pageCross base base = false := bne_self_eq_false _

/-- The indexed addition wraps at 16 bits (R109, R110, R112). -/
theorem toNat_add_zext16 (base : Word) (index : Byte) :
    (base + zext16 index).toNat = (base.toNat + index.toNat) % 65536 := by
  rw [BitVec.toNat_add, toNat_zext16]

/-- A sum past 0xFFFF lands in page 0: an index is less than a page. -/
theorem add_zext16_in_page_zero {base : Word} {index : Byte} (hwrap : 65536 ≤ base.toNat + index.toNat) :
    (base + zext16 index).toNat / 256 = 0 := by
  have hbase : base.toNat < 65536 := base.isLt
  have hindex : index.toNat < 256 := index.isLt
  rw [toNat_add_zext16]
  omega

/-- A sum past 0xFFFF crosses: only a base in page 0xFF reaches it, and the sum is in page 0. -/
theorem pageCross_of_wrap {base : Word} {index : Byte} (hwrap : 65536 ≤ base.toNat + index.toNat) :
    pageCross base (base + zext16 index) = true := by
  have hindex : index.toNat < 256 := index.isLt
  rw [pageCross_iff, add_zext16_in_page_zero hwrap]
  omega

/-- Settles O30, by the high byte as a quotient by 256. The model's own function has the name `pageCross`. -/
theorem pageCrossing : Obligations.PageCross := by
  refine ⟨pageCross_iff, fun base index hwrap => ⟨add_zext16_in_page_zero hwrap, pageCross_of_wrap hwrap⟩,
    fun base => ?_, by decide, by decide⟩
  have hzero : base + zext16 0x00 = base := BitVec.add_zero base
  rw [hzero, pageCross_self]

end Sys2Proof.Machine
end

section
/-! The documented cycles of R228 are the opcode fetch and the cycles of the body. -/

namespace Sys2Proof.Machine

/-- The extra cycle of an indexed base, in the terms of R228's table. -/
theorem crossCycles_eq (base ea : Word) : crossCycles base ea = if hiByte base = hiByte ea then 0 else 1 := by
  by_cases h : hiByte base = hiByte ea <;> simp [crossCycles, pageCross, h]

/-- A form with "+p" costs its base cycles and the cross of its indexed addition. -/
theorem documentedCycles_of_indexedBase {i : Instr} {s : State} {base : Word} {index : Byte}
    (h : i.indexedBase s = some (base, index)) :
    i.documentedCycles s = i.baseCycles + crossCycles base (base + zext16 index) := by
  simp only [Instr.documentedCycles, h, crossCycles_eq]
  split <;> rfl

/-- The table's cost of an instruction is one cycle for the opcode and the charges of its body (R113, R228). -/
theorem documentedCycles_eq (i : Instr) (s : State) : i.documentedCycles s = 1 + i.bodyCycles s := by
  cases i with
  | ldaAbsX addr | ldaAbsY addr | ldxAbsY addr | ldyAbsX addr | ldaIndY zp =>
    rw [documentedCycles_of_indexedBase rfl]
    simp only [Instr.baseCycles, Instr.bodyCycles, pointerAt]
    omega
  | _ => rfl

/-- The cycles of a body depend on X, Y and memory, which the opcode fetch leaves as they are. -/
theorem bodyCycles_after (i : Instr) (s : State) (b c : Nat) : i.bodyCycles (s.after b c) = i.bodyCycles s := by
  simp only [Instr.bodyCycles, after_x, after_y, after_mem]

/-- Settles O27: a step charges the opcode fetch and the body of the instruction at PC. -/
theorem stepCost : Obligations.StepCost := by
  intro s _
  refine ⟨_, step_eq_effect s, ?_⟩
  rw [effect_cycles, after_cycles, bodyCycles_after, documentedCycles_eq, Nat.add_assoc]

end Sys2Proof.Machine
end

section
/-! The fetch primitives, the charged read and the penalty (R100 to R103). -/

namespace Sys2Proof.Machine

theorem fetchByte_after (s : State) : s.fetchByte = (s.mem.read s.pc, s.after 1 1) := rfl

theorem fetchWord_after (s : State) : s.fetchWord = (s.mem.readWord s.pc, s.after 2 2) := rfl

/-- A word fetch is two byte fetches, the low byte first, also where PC wraps between them (R101). -/
theorem fetchWord_eq_fetchByte_fetchByte (s : State) :
    s.fetchWord = (concat s.fetchByte.2.fetchByte.1 s.fetchByte.1, s.fetchByte.2.fetchByte.2) := by
  simp only [fetchWord_after, fetchByte_after, after_after, after_mem, after_pc]
  rfl

/-- Settles O28: both are one record update (R100, R102). -/
theorem fetchByteAndRead : Obligations.FetchByteAndRead := fun _ _ _ => ⟨rfl, rfl⟩

/-- Settles O29, by the value of the word at PC and by two byte fetches moving PC as one word fetch does. -/
theorem fetchWordAndPenalty : Obligations.FetchWordAndPenalty :=
  fun s _ => ⟨toNat_readWord s.mem s.pc, rfl, fetchWord_eq_fetchByte_fetchByte s, rfl⟩

end Sys2Proof.Machine
end

section
/-! The loads, form by form (R131 to R148). A load's body and its step are stated once for every load; each form then
gives its operand value and its cycles in the arithmetic of the spec. -/

namespace Sys2Proof.Machine

/-! ### The write-back (R130) -/

theorem negativeFlag_eq_decide (v : Byte) : negativeFlag v = decide (128 ≤ v.toNat) :=
  BitVec.msb_eq_decide v

theorem loaded_eq (p : Flags) (v : Byte) :
    p.loaded v = { p with z := decide (v = 0x00), n := decide (128 ≤ v.toNat) } := by
  rw [Flags.loaded, zeroFlag_eq_decide, negativeFlag_eq_decide]

/-- Settles O20, by the flags as comparisons of the value with 0 and 128; the rest is the frame of `setLoad`. -/
theorem setLoad : Obligations.SetLoad := by
  intro s r v
  have hp : (s.setLoad r v).p = { s.p with z := decide (v = 0x00), n := decide (128 ≤ v.toNat) } := loaded_eq s.p v
  have hzero : v = 0x00 ↔ v.toNat = 0 := BitVec.toNat_inj.symm
  refine ⟨setLoad_reg_same s r v, hp, ?_, ?_, ?_, ?_, fun q hq => setLoad_reg_other s v r q hq, setLoad_pc s r v,
    setLoad_sp s r v, setLoad_cycles s r v, setLoad_target s r v, setLoad_mem s r v⟩ <;>
    simp only [hp, hzero, decide_eq_true_eq, decide_eq_false_iff_not] <;> omega

/-! ### Operand bytes and the instruction at PC (R70 to R72) -/

theorem loByte_eq_ofNat (w : Word) : loByte w = BitVec.ofNat 8 w.toNat :=
  BitVec.eq_of_toNat_eq (by rw [toNat_loByte, BitVec.toNat_ofNat])

theorem hiByte_eq_ofNat (w : Word) : hiByte w = BitVec.ofNat 8 (w.toNat / 256) := by
  have hlt : w.toNat / 256 < 2 ^ 8 := by have := w.isLt; omega
  exact BitVec.eq_of_toNat_eq (by rw [toNat_hiByte, BitVec.toNat_ofNat, Nat.mod_eq_of_lt hlt])

theorem wellFormed_of_load {i : Instr} {r : Reg} (hd : i.dest = some r) : i.wellFormed = true := by
  cases i with
  | undef op => cases hd
  | _ => rfl

theorem instrAt_of_byteOperand {i : Instr} {s : State} {b : Byte} (hi : i.wellFormed = true)
    (hbytes : i.operandBytes = [b]) (hop : s.mem.read s.pc = i.opcode) (hb : s.mem.read (s.pc + 1) = b) :
    instrAt s = i := by
  have hdecode := decodeBytes_operandBytes hi [s.mem.read (s.pc + 2)]
  rw [hbytes] at hdecode
  rwa [instrAt, hop, hb]

theorem instrAt_of_wordOperand {i : Instr} {s : State} {w : Word} (hi : i.wellFormed = true)
    (hbytes : i.operandBytes = [loByte w, hiByte w]) (hop : s.mem.read s.pc = i.opcode)
    (hlow : s.mem.read (s.pc + 1) = BitVec.ofNat 8 w.toNat)
    (hhigh : s.mem.read (s.pc + 2) = BitVec.ofNat 8 (w.toNat / 256)) : instrAt s = i := by
  have hdecode := decodeBytes_operandBytes hi []
  rw [hbytes, loByte_eq_ofNat, hiByte_eq_ofNat] at hdecode
  rwa [instrAt, hop, hlow, hhigh]

/-! ### Every load: its body and its step

`v` is the value loaded and `c` the cycles charged, as the statement at hand writes them. -/

/-- The value loaded depends on X, Y and memory, which the opcode fetch leaves as they are. -/
theorem operandValue_after (i : Instr) (s : State) (b c : Nat) : i.operandValue (s.after b c) = i.operandValue s := by
  simp only [Instr.operandValue, after_x, after_y, after_mem]

section
variable {i : Instr} {r : Reg} {s : State} {v : Byte} {c : Nat}

theorem exec_load (hd : i.dest = some r) (hv : i.operandValue s = v) (hc : i.bodyCycles s = c) :
    exec i s = .next ((s.after (i.length - 1) c).setLoad r v) := by
  rw [exec_eq, effect_of_load hd, hv, hc]

/-- PC moves by the length of the instruction, the opcode fetch included (R161). -/
theorem step_load (hd : i.dest = some r) (hv : i.operandValue s = v) (hc : 1 + i.bodyCycles s = c)
    (hat : instrAt s = i) : step s = .next ((s.after i.length c).setLoad r v) := by
  have hlen : 1 + (i.length - 1) = i.length := Nat.add_sub_cancel' (one_le_length i)
  rw [step_eq_effect, hat, effect_of_load hd, operandValue_after, bodyCycles_after, after_after, hlen, hv, hc]

theorem step_load_byteOperand {b : Byte} (hd : i.dest = some r) (hbytes : i.operandBytes = [b])
    (hv : i.operandValue s = v) (hc : 1 + i.bodyCycles s = c) (hop : s.mem.read s.pc = i.opcode)
    (hb : s.mem.read (s.pc + 1) = b) : step s = .next ((s.after i.length c).setLoad r v) :=
  step_load hd hv hc (instrAt_of_byteOperand (wellFormed_of_load hd) hbytes hop hb)

theorem step_load_wordOperand {w : Word} (hd : i.dest = some r) (hbytes : i.operandBytes = [loByte w, hiByte w])
    (hv : i.operandValue s = v) (hc : 1 + i.bodyCycles s = c) (hop : s.mem.read s.pc = i.opcode)
    (hlow : s.mem.read (s.pc + 1) = BitVec.ofNat 8 w.toNat)
    (hhigh : s.mem.read (s.pc + 2) = BitVec.ofNat 8 (w.toNat / 256)) :
    step s = .next ((s.after i.length c).setLoad r v) :=
  step_load hd hv hc (instrAt_of_wordOperand (wellFormed_of_load hd) hbytes hop hlow hhigh)

end

/-! ### Effective addresses in the spec's arithmetic (R105 to R112) -/

theorem zext16_eq_ofNat (b : Byte) : zext16 b = BitVec.ofNat 16 b.toNat :=
  (BitVec.ofNat_toNat 16 b).symm

/-- Indexing inside page 0 wraps at 8 bits (R107, R108). -/
theorem zext16_add (b index : Byte) : zext16 (b + index) = BitVec.ofNat 16 ((b.toNat + index.toNat) % 256) := by
  rw [zext16_eq_ofNat, BitVec.toNat_add]

/-- Indexing a base wraps at 16 bits (R109, R110, R112). -/
theorem add_zext16 (base : Word) (index : Byte) :
    base + zext16 index = BitVec.ofNat 16 ((base.toNat + index.toNat) % 65536) := by
  rw [← toNat_add_zext16, BitVec.ofNat_toNat, BitVec.setWidth_eq]

/-- The extra cycle of an indexed base, by high bytes as quotients (R113). -/
theorem crossCycles_add_zext16 (base : Word) (index : Byte) :
    crossCycles base (base + zext16 index) =
      if (base.toNat + index.toNat) % 65536 / 256 = base.toNat / 256 then 0 else 1 := by
  simp only [crossCycles, pageCross_iff, toNat_add_zext16, ne_eq, ite_not, eq_comm (a := base.toNat / 256)]

/-- A pointer's bytes are in page 0, the second at the next address modulo 256 (R111, R112). -/
theorem toNat_pointerAt (m : Memory) (ptr : Byte) :
    (pointerAt m ptr).toNat =
      (m.read (BitVec.ofNat 16 ((ptr.toNat + 1) % 256))).toNat * 256 + (m.read (BitVec.ofNat 16 ptr.toNat)).toNat := by
  rw [pointerAt, toNat_concat, zext16_add, zext16_eq_ofNat]
  rfl

/-! ### Each form -/

/-- Settles O9: the operand is the value, and the body charges its fetch alone (R104). -/
theorem loadImmediate : Obligations.LoadImmediate := fun _ imm =>
  ⟨fun _ => exec_load (i := .ldaImm imm) rfl rfl rfl,
    fun _ => exec_load (i := .ldxImm imm) rfl rfl rfl,
    fun _ => exec_load (i := .ldyImm imm) rfl rfl rfl,
    fun _ => step_load_byteOperand (i := .ldaImm imm) rfl rfl rfl rfl,
    fun _ => step_load_byteOperand (i := .ldxImm imm) rfl rfl rfl rfl,
    fun _ => step_load_byteOperand (i := .ldyImm imm) rfl rfl rfl rfl⟩

/-- Settles O10: the address is the operand byte, its high byte 0 (R105). -/
theorem loadZeroPage : Obligations.LoadZeroPage := by
  intro s zp v
  have hv : s.mem.read (zext16 zp) = v := congrArg s.mem.read (zext16_eq_ofNat zp)
  exact ⟨fun _ => exec_load (i := .ldaZp zp) rfl hv rfl,
    fun _ => exec_load (i := .ldxZp zp) rfl hv rfl,
    fun _ => exec_load (i := .ldyZp zp) rfl hv rfl,
    fun _ => step_load_byteOperand (i := .ldaZp zp) rfl rfl hv rfl,
    fun _ => step_load_byteOperand (i := .ldxZp zp) rfl rfl hv rfl,
    fun _ => step_load_byteOperand (i := .ldyZp zp) rfl rfl hv rfl⟩

/-- Settles O11: the sum of operand and X wraps at 8 bits (R107). -/
theorem loadZeroPageX : Obligations.LoadZeroPageX := by
  intro s zp v
  have hv : s.mem.read (zext16 (zp + s.x)) = v := congrArg s.mem.read (zext16_add zp s.x)
  exact ⟨fun _ => exec_load (i := .ldaZpX zp) rfl hv rfl,
    fun _ => exec_load (i := .ldyZpX zp) rfl hv rfl,
    fun _ => step_load_byteOperand (i := .ldaZpX zp) rfl rfl hv rfl,
    fun _ => step_load_byteOperand (i := .ldyZpX zp) rfl rfl hv rfl⟩

/-- Settles O12: the sum of operand and Y wraps at 8 bits (R108). -/
theorem loadZeroPageY : Obligations.LoadZeroPageY := by
  intro s zp v
  have hv : s.mem.read (zext16 (zp + s.y)) = v := congrArg s.mem.read (zext16_add zp s.y)
  exact ⟨fun _ => exec_load (i := .ldxZpY zp) rfl hv rfl,
    fun _ => step_load_byteOperand (i := .ldxZpY zp) rfl rfl hv rfl⟩

/-- Settles O13: the operand word is the address (R106). -/
theorem loadAbsolute : Obligations.LoadAbsolute := fun _ addr =>
  ⟨fun _ => exec_load (i := .ldaAbs addr) rfl rfl rfl,
    fun _ => exec_load (i := .ldxAbs addr) rfl rfl rfl,
    fun _ => exec_load (i := .ldyAbs addr) rfl rfl rfl,
    fun _ => step_load_wordOperand (i := .ldaAbs addr) rfl rfl rfl rfl,
    fun _ => step_load_wordOperand (i := .ldxAbs addr) rfl rfl rfl rfl,
    fun _ => step_load_wordOperand (i := .ldyAbs addr) rfl rfl rfl rfl⟩

/-- Settles O14: the sum of address and X wraps at 16 bits, and a cross costs one more cycle (R109). -/
theorem loadAbsoluteX : Obligations.LoadAbsoluteX := by
  intro s addr ea v cross
  have hv : s.mem.read (addr + zext16 s.x) = v := congrArg s.mem.read (add_zext16 addr s.x)
  have hcross : crossCycles addr (addr + zext16 s.x) = cross := crossCycles_add_zext16 addr s.x
  have hbody : 2 + crossCycles addr (addr + zext16 s.x) + 1 = 3 + cross := by omega
  have hstep : 1 + (2 + crossCycles addr (addr + zext16 s.x) + 1) = 4 + cross := by omega
  simp only [Nat.add_assoc s.cycles]
  exact ⟨fun _ => exec_load (i := .ldaAbsX addr) rfl hv hbody,
    fun _ => exec_load (i := .ldyAbsX addr) rfl hv hbody,
    fun _ => step_load_wordOperand (i := .ldaAbsX addr) rfl rfl hv hstep,
    fun _ => step_load_wordOperand (i := .ldyAbsX addr) rfl rfl hv hstep⟩

/-- Settles O15: the sum of address and Y wraps at 16 bits, and a cross costs one more cycle (R110). -/
theorem loadAbsoluteY : Obligations.LoadAbsoluteY := by
  intro s addr ea v cross
  have hv : s.mem.read (addr + zext16 s.y) = v := congrArg s.mem.read (add_zext16 addr s.y)
  have hcross : crossCycles addr (addr + zext16 s.y) = cross := crossCycles_add_zext16 addr s.y
  have hbody : 2 + crossCycles addr (addr + zext16 s.y) + 1 = 3 + cross := by omega
  have hstep : 1 + (2 + crossCycles addr (addr + zext16 s.y) + 1) = 4 + cross := by omega
  simp only [Nat.add_assoc s.cycles]
  exact ⟨fun _ => exec_load (i := .ldaAbsY addr) rfl hv hbody,
    fun _ => exec_load (i := .ldxAbsY addr) rfl hv hbody,
    fun _ => step_load_wordOperand (i := .ldaAbsY addr) rfl rfl hv hstep,
    fun _ => step_load_wordOperand (i := .ldxAbsY addr) rfl rfl hv hstep⟩

/-- Settles O16: the sum of operand and X, wrapped at 8 bits, is the pointer; the address it holds is read unindexed
(R111). -/
theorem loadIndirectX : Obligations.LoadIndirectX := by
  intro s zp ptr ea v
  have hptr : (zp + s.x).toNat = ptr := BitVec.toNat_add zp s.x
  have hea : (pointerAt s.mem (zp + s.x)).toNat = ea := by rw [toNat_pointerAt, hptr]
  have haddr : pointerAt s.mem (zp + s.x) = BitVec.ofNat 16 ea := by
    rw [← hea, BitVec.ofNat_toNat, BitVec.setWidth_eq]
  have hv : s.mem.read (pointerAt s.mem (zp + s.x)) = v := congrArg s.mem.read haddr
  exact ⟨fun _ => exec_load (i := .ldaIndX zp) rfl hv rfl,
    fun _ => step_load_byteOperand (i := .ldaIndX zp) rfl rfl hv rfl⟩

/-- Settles O17: the base the pointer holds is indexed by Y as an absolute address is (R112). -/
theorem loadIndirectY : Obligations.LoadIndirectY := by
  intro s zp base ea v cross
  have hbase : (pointerAt s.mem zp).toNat = base := toNat_pointerAt s.mem zp
  have hv : s.mem.read (pointerAt s.mem zp + zext16 s.y) = v := by rw [add_zext16, hbase]
  have hcross : crossCycles (pointerAt s.mem zp) (pointerAt s.mem zp + zext16 s.y) = cross := by
    rw [crossCycles_add_zext16, hbase]
  have hbody : 3 + crossCycles (pointerAt s.mem zp) (pointerAt s.mem zp + zext16 s.y) + 1 = 4 + cross := by omega
  have hstep : 1 + (3 + crossCycles (pointerAt s.mem zp) (pointerAt s.mem zp + zext16 s.y) + 1) = 5 + cross := by omega
  simp only [Nat.add_assoc s.cycles]
  exact ⟨fun _ => exec_load (i := .ldaIndY zp) rfl hv hbody,
    fun _ => step_load_byteOperand (i := .ldaIndY zp) rfl rfl hv hstep⟩

end Sys2Proof.Machine
end

section
/-! BRK, NOP and UNDEF: a body that charges cycles and changes nothing else (R164, R165, R166). -/

namespace Sys2Proof.Machine

/-- The body of a control instruction leaves PC too, for it has no operand bytes. -/
theorem exec_control {i : Instr} (hd : i.dest = none) (s : State) : exec i s = .next (s.after 0 (i.bodyCycles s)) := by
  have hlen : i.length = 1 := (length_eq_one_iff i).2 hd
  rw [exec_eq, effect_of_control hd, hlen]

theorem operandBytes_of_control {i : Instr} (hd : i.dest = none) : i.operandBytes = [] := by
  have hlen : i.length = 1 := (length_eq_one_iff i).2 hd
  exact List.eq_nil_of_length_eq_zero (by rw [length_operandBytes, hlen])

/-- The opcode byte alone gives a control instruction (R78). -/
theorem instrAt_of_control {i : Instr} {s : State} (hd : i.dest = none) (hi : i.wellFormed = true)
    (hop : s.mem.read s.pc = i.opcode) : instrAt s = i := by
  have hdecode := decodeBytes_operandBytes hi [s.mem.read (s.pc + 1), s.mem.read (s.pc + 2)]
  rw [operandBytes_of_control hd] at hdecode
  rwa [instrAt, hop]

/-- A step over a control instruction is its opcode fetch and the cycles of its body. -/
theorem step_control {i : Instr} {s : State} (hd : i.dest = none) (hi : i.wellFormed = true)
    (hop : s.mem.read s.pc = i.opcode) : step s = .next (s.after 1 (1 + i.bodyCycles s)) := by
  rw [step_eq, instrAt_of_control hd hi hop, exec_control hd, bodyCycles_after, after_after]

/-- Settles O18: the body charges 6 cycles, the opcode fetch 1. -/
theorem brkStub : Obligations.BrkStub := fun _ =>
  ⟨fun _ => rfl, fun _ hop => step_control (i := .brk) rfl rfl hop⟩

/-- Settles O19: the body of NOP charges 1 cycle, that of UNDEF none, and the opcode fetch 1. -/
theorem nopAndUndefined : Obligations.NopAndUndefined := fun s _ =>
  ⟨fun _ => rfl, rfl, fun _ hop => step_control (i := .nop) rfl rfl hop,
    fun _ hundef => step_control (i := .undef (s.mem.read s.pc)) rfl hundef rfl⟩

/-- Settles O22: the body is a charge of cycles, which leaves every other field. -/
theorem controlFrame : Obligations.ControlFrame := by
  intro i s t hd hexec
  obtain rfl : s.after 0 (i.bodyCycles s) = t := Host.Outcome.next.inj ((exec_control hd s).symm.trans hexec)
  have hpc : (s.after 0 (i.bodyCycles s)).pc = s.pc := BitVec.add_zero s.pc
  exact ⟨fun q => after_reg s _ _ q, rfl, hpc, rfl, fun _ => rfl, fun _ => rfl⟩

end Sys2Proof.Machine
end

section
/-! The step and R161's pseudocode are one function: each row of the opcode table builds, from the bytes at PC, the
instruction whose body fetches those bytes itself. -/

namespace Sys2Proof.Machine

/-- The part of R161's pseudocode after the opcode fetch: the body that `Decode` selects, run in the state that fetch
leaves. -/
def Body.run (body : Body) (s : State) : State :=
  match body with
  | .load r m => loadValue r (operandOfMode m s)
  | .brk => s.tick Params.brkCycles
  | .nop => s.tick Params.nopCycles
  | .undef => s

theorem pseudocodeStep_eq (s : State) :
    pseudocodeStep s = (bodyOfOpcode (s.mem.read s.pc)).run (s.after 1 1) := rfl

/-- A row of the table and its cell of the grid say the same: on the operand bytes at PC, the instruction the row
builds does what the body does that fetches them there (R75, R114). -/
theorem exec_build_of_mem_opcodeTable : ∀ r ∈ opcodeTable, ∀ s : State,
    exec (r.build (s.mem.read s.pc) (s.mem.read (s.pc + 1))) s = .next ((bodyOfOpcode r.opcode).run s) := by
  simp only [opcodeTable, opcodeTableControlLda, opcodeTableLdxLdy, List.cons_append, List.nil_append,
    List.forall_mem_cons, List.not_mem_nil, false_implies, implies_true, and_true]
  and_intros <;> exact fun _ => rfl

/-- Every cell of the grid that is not UNDEF has its row in the table. -/
theorem bodyOfOpcode_of_no_row {op : Byte} (hnone : opcodeRow op = none) : bodyOfOpcode op = .undef := by
  have hbyte : op = BitVec.ofNat 8 op.toNat := by rw [BitVec.ofNat_toNat, BitVec.setWidth_eq]
  unfold bodyOfOpcode
  split
  case h_21 => rfl
  all_goals
    rename_i hcell
    rw [hcell] at hbyte
    subst hbyte
    exact absurd hnone (by decide)

/-- The operand bytes of the instruction at PC are those at PC after the opcode fetch. -/
theorem instrAt_eq_fetched (s : State) : instrAt s =
    decodeBytes (s.mem.read s.pc) ((s.after 1 1).mem.read (s.after 1 1).pc)
      ((s.after 1 1).mem.read ((s.after 1 1).pc + 1)) := by
  have hpc : s.pc + 1 + 1 = s.pc + 2 := BitVec.add_assoc s.pc 1 1
  rw [instrAt, ← hpc]
  rfl

/-- Settles O7, by the row of the opcode at PC, or as UNDEF where there is none. -/
theorem stepAgreesWithPseudocode : Obligations.StepAgreesWithPseudocode := by
  intro s
  rw [step_eq, pseudocodeStep_eq, instrAt_eq_fetched]
  obtain ⟨r, hr, hop, -, heq⟩ | ⟨hnone, heq⟩ := decodeBytes_cases (s.mem.read s.pc)
      ((s.after 1 1).mem.read (s.after 1 1).pc) ((s.after 1 1).mem.read ((s.after 1 1).pc + 1))
  · rw [heq, ← hop, exec_build_of_mem_opcodeTable r hr]
  · rw [heq, bodyOfOpcode_of_no_row hnone]
    rfl

end Sys2Proof.Machine
end

section
/-! How many steps Execute runs (R160, R163): up to the first that brings the count to the target. -/

namespace Sys2Proof.Machine

/-! ### Runs -/

theorem run_add {k : Nat} {s t : State} (hrun : Host.Core.run core k s = .next t) (j : Nat) :
    Host.Core.run core (k + j) s = Host.Core.run core j t := by
  induction k generalizing s with
  | zero => rw [Nat.zero_add, Host.Outcome.next.inj hrun]
  | succ k ih =>
    obtain ⟨u, hstep, -⟩ := step_next s
    rw [run_succ k hstep] at hrun
    rw [Nat.add_right_comm, run_succ (k + j) hstep, ih hrun]

/-- A run of k + 1 steps is a run of k and one step more. -/
theorem run_succ_last {k : Nat} {s u t : State} (hrun : Host.Core.run core k s = .next u) (hstep : step u = .next t) :
    Host.Core.run core (k + 1) s = .next t := by
  rw [run_add hrun, run_succ 0 hstep, run_zero]

theorem run_cycles_le {k : Nat} {s t : State} (hrun : Host.Core.run core k s = .next t) : s.cycles ≤ t.cycles :=
  run_induction (P := fun u => s.cycles ≤ u.cycles) (fun _ _ hu hstep => hu.trans (step_cycles_lt hstep).le) le_rfl hrun

/-- A longer run ends with no lower count (R38). -/
theorem run_cycles_mono {k m : Nat} {s w u : State} (hkm : k ≤ m) (hk : Host.Core.run core k s = .next w)
    (hm : Host.Core.run core m s = .next u) : w.cycles ≤ u.cycles := by
  obtain ⟨j, rfl⟩ := Nat.exists_eq_add_of_le hkm
  exact run_cycles_le (run_add hk j ▸ hm)

/-- A step keeps the target and costs at most 7 cycles (R163). -/
theorem step_target_and_cycles_le {s t : State} (hstep : step s = .next t) :
    t.target = s.target ∧ t.cycles ≤ s.cycles + 7 := by
  obtain ⟨t', hstep', -, hle, -, htarget⟩ := step_next s
  obtain rfl : t' = t := Host.Outcome.next.inj (hstep'.symm.trans hstep)
  exact ⟨htarget, hle⟩

/-! ### The loop -/

/-- Execute answers where its loop ends, without the target. -/
theorem execute_of_loop {n : Nat} {s t : State} (hloop : executeLoop n (beginExecute n s) = .next t) :
    execute n s = .next (endExecute t) := by
  simp only [execute, hloop]

/-- With enough fuel for one cycle a step, the loop ends where the count reaches the target: the last step starts in a
state `u` below it, after `m` steps. -/
theorem executeLoop_reaches_target {fuel : Nat} {s : State} {target : Nat} (htarget : s.target = some target)
    (hlt : s.cycles < target) (hfuel : target ≤ s.cycles + fuel) :
    ∃ m u t, m < fuel ∧ Host.Core.run core m s = .next u ∧ u.cycles < target ∧ step u = .next t ∧
      target ≤ t.cycles ∧ executeLoop fuel s = .next t := by
  induction fuel generalizing s with
  | zero => omega
  | succ fuel ih =>
    obtain ⟨v, hstep, -⟩ := step_next s
    have hv : v.target = some target := (step_target_and_cycles_le hstep).1.trans htarget
    have hcost : s.cycles < v.cycles := step_cycles_lt hstep
    have hloop := executeLoop_of_lt fuel htarget hlt hstep
    by_cases hgo : v.cycles < target
    · obtain ⟨m, u, t, hm, hrun, hbelow, hlast, hreach, hend⟩ := ih hv hgo (by omega)
      exact ⟨m + 1, u, t, Nat.succ_lt_succ hm, (run_succ m hstep).trans hrun, hbelow, hlast, hreach, hloop.trans hend⟩
    · have hdone : ¬ ∃ target, v.target = some target ∧ v.cycles < target := by simp [hv, hgo]
      exact ⟨0, s, v, Nat.succ_pos fuel, rfl, hlt, hstep, Nat.le_of_not_lt hgo,
        hloop.trans (executeLoop_of_done fuel hdone)⟩

/-- Settles O31: the last step starts below the target, so no shorter run has reached it, and its 7 cycles at most
bound the overshoot. -/
theorem executeMeetsItsBudget : Obligations.ExecuteMeetsItsBudget := by
  intro n s hn _
  obtain ⟨m, u, t, hm, hrun, hbelow, hlast, hreach, hloop⟩ :=
    executeLoop_reaches_target (fuel := n) (s := beginExecute n s) rfl (Nat.lt_add_of_pos_right hn) le_rfl
  have hcost : u.cycles < t.cycles := step_cycles_lt hlast
  have hmax : t.cycles ≤ u.cycles + 7 := (step_target_and_cycles_le hlast).2
  have hleast : ∀ k w, k < m + 1 → Host.Core.run core k (beginExecute n s) = .next w → w.cycles < s.cycles + n :=
    fun k w hk hw => (run_cycles_mono (Nat.le_of_lt_succ hk) hw hrun).trans_lt hbelow
  exact ⟨m + 1, u, t, Nat.succ_pos m, hm, run_succ_last hrun hlast, execute_of_loop hloop, hleast, hrun, hlast, hreach,
    by omega, by omega⟩

/-! ### Execute of one step -/

/-- No instruction reads or writes the target (R41). -/
theorem effect_with_target (i : Instr) (s : State) (target : Option Nat) :
    i.effect { s with target := target } = { i.effect s with target := target } := by
  have hsame : SameInputs { s with target := target } s := ⟨rfl, rfl, rfl, rfl⟩
  cases hd : i.dest with
  | none =>
    rw [effect_of_control hd, effect_of_control hd, hsame.bodyCycles_eq]
    rfl
  | some r =>
    rw [effect_of_load hd, effect_of_load hd, hsame.bodyCycles_eq, hsame.operandValue_eq]
    cases r <;> rfl

theorem step_with_target {s t : State} (hstep : step s = .next t) (target : Option Nat) :
    step { s with target := target } = .next { t with target := target } := by
  obtain rfl := eq_effect_of_step hstep
  exact (step_eq_effect _).trans (congrArg _ (effect_with_target (instrAt s) (s.after 1 1) target))

/-- A budget that one step uses up is a run of that step. -/
theorem execute_of_step {n : Nat} {s t : State} (hn : 1 ≤ n) (hstep : step s = .next t)
    (hreach : s.cycles + n ≤ t.cycles) : execute n s = .next (endExecute t) := by
  obtain ⟨fuel, rfl⟩ := Nat.exists_eq_add_of_le' hn
  have hstep' : step (beginExecute (fuel + 1) s) = .next { t with target := some (s.cycles + (fuel + 1)) } :=
    step_with_target hstep _
  have hloop := executeLoop_of_lt fuel (beginExecute_target _ s) (Nat.lt_add_of_pos_right hn) hstep'
  rw [executeLoop_of_done fuel (by simpa using hreach)] at hloop
  exact (execute_of_loop hloop).trans rfl

/-- Settles O32: the step costs the documented cycles (O27), which is the whole budget, and moves PC past the
instruction. -/
theorem cycleExactness : Obligations.CycleExactness := by
  intro s hfits
  obtain ⟨t, hstep, hcycles⟩ := stepCost s (hfits.mono (by decide))
  have hpos : 1 ≤ (instrAt s).documentedCycles s := by
    rw [documentedCycles_eq]
    exact Nat.le_add_right 1 _
  have hlen : 1 + ((instrAt s).length - 1) = (instrAt s).length := Nat.add_sub_cancel' (one_le_length _)
  refine ⟨t, hstep, execute_of_step hpos hstep hcycles.ge, hcycles, ?_⟩
  rw [eq_effect_of_step hstep, effect_pc, after_pc, BitVec.add_assoc, ← BitVec.ofNat_add, hlen]

/-- Settles O33: every step uses up a budget of 1, and it leaves no target where there was none. -/
theorem executeOneIsOneStep : Obligations.ExecuteOneIsOneStep := by
  intro s hnone _
  obtain ⟨t, hstep, -⟩ := step_next s
  have ht : t.target = none := (step_target_and_cycles_le hstep).1.trans hnone
  have hend : endExecute t = t := by rw [endExecute, ← ht]
  rw [execute_of_step le_rfl hstep (step_cycles_lt hstep), hend, hstep]

end Sys2Proof.Machine
end

section
/-! No instruction, step or Execute stops the machine (R200). -/

namespace Sys2Proof.Machine

/-- Settles O8: an instruction answers its effect, so a step does, and Execute answers the end of a run of steps. -/
theorem nothingFaults : Obligations.NothingFaults := by
  refine ⟨fun i s => ⟨i.effect s, exec_eq i s⟩, fun s => ⟨_, step_eq_effect s⟩, fun n s _ => ?_⟩
  obtain ⟨_, t, -, -, hexecute⟩ := execute_eq_run n s
  exact ⟨endExecute t, hexecute⟩

end Sys2Proof.Machine
end

section
/-! Reset called again (R222): it keeps what it reads, and it reads the vector of the memory it finds. -/

namespace Sys2Proof.Machine

/-- The vector is the word at 0xFFFC (R54, R221). -/
theorem resetVector_eq_readWord (m : Memory) : resetVector m = m.readWord Params.resetVectorLow := rfl

/-- Reset keeps memory, so a second one loads the same vector, and all it changes is the count. -/
theorem resetCommand_resetCommand (s : State) :
    resetCommand (resetCommand s) =
      { resetCommand s with cycles := s.cycles + (Params.resetCycles + Params.resetCycles) } := by
  rw [← Nat.add_assoc]
  rfl

theorem resetCommand_hostWriteWord_pc {s : State} (hm : s.mem.wf = true) (vector : Word) :
    (resetCommand (hostWriteWord Params.resetVectorLow vector s)).pc = vector := by
  rw [resetCommand_pc, hostWriteWord_mem, resetVector_eq_readWord, readWord_writeWord hm]

/-- Settles O42: a Reset writes nothing the next one reads but the count, and a word written at the vector reads back. -/
theorem resetAgain : Obligations.ResetAgain :=
  fun s vector => ⟨fun _ => resetCommand_resetCommand s, fun hm => resetCommand_hostWriteWord_pc hm vector⟩

end Sys2Proof.Machine
end

section
/-! The host's flag writes, U, Reset and an empty Execute (R34, R42, R160, R221). -/

namespace Sys2Proof.Machine

/-! ### Flags and U (R34, R42) -/

/-- A flag write leaves U too, also where U is the flag written. -/
theorem get_set_other_or_u (p : Flags) (v : Bool) (f : Flag) {g : Flag} (h : g ≠ f ∨ g = .u) :
    (p.set f v).get g = p.get g := by
  obtain hne | rfl := h
  · exact get_set_other p v f g hne
  · exact set_u p f v

/-- Settles O44: the flag written reads back, the others and U are as before, and the move writes the flags alone. -/
theorem hostFlagWrite : Obligations.HostFlagWrite :=
  fun f value s => ⟨get_set_same s.p f value, fun _ => get_set_other_or_u s.p value f, rfl⟩

/-- No instruction writes U, whatever it held. -/
theorem EngineKeeps.u {s t : State} (h : EngineKeeps s t) : t.p.u = s.p.u := h.flag .u nofun nofun

/-- Settles O45, by cases on the move: Execute keeps what every step keeps, Construct and Reset write U with 1, a flag
write leaves U, and a memory write leaves the flags. -/
theorem unusedFlagStaysOne : Obligations.UnusedFlagStaysOne := by
  refine ⟨fun _ => rfl, fun _ => rfl, fun s t hu hstep => (step_engineKeeps hstep).u.trans hu,
    fun c s t hu _ hrun => ?_⟩
  cases c with
  | execute n => exact (execute_engineKeeps hrun).u.trans hu
  | construct memory | reset =>
    obtain rfl := Host.Outcome.next.inj hrun
    rfl
  | setFlag f value =>
    obtain rfl := Host.Outcome.next.inj hrun
    exact (set_u s.p f value).trans hu
  | writeByte addr v | writeWord addr v =>
    obtain rfl := Host.Outcome.next.inj hrun
    exact hu

/-! ### Execute of an empty budget (R160) -/

/-- A command's target is all that its begin and end write. -/
theorem endExecute_beginExecute {s : State} (hnone : s.target = none) (n : Nat) : endExecute (beginExecute n s) = s := by
  rw [endExecute, beginExecute, ← hnone]

/-- Settles O34: the target is the count itself, so the loop's test fails before the first step. -/
theorem executeZeroRunsNothing : Obligations.ExecuteZeroRunsNothing := by
  intro s hnone _
  have hdone : ¬ ∃ target, (beginExecute 0 s).target = some target ∧ (beginExecute 0 s).cycles < target := by simp
  rw [execute_of_loop (executeLoop_of_done 0 hdone), endExecute_beginExecute hnone]

/-! ### Reset (R221) -/

theorem concat_eq_ofNat (h l : Byte) : concat h l = BitVec.ofNat 16 (h.toNat * 256 + l.toNat) := by
  rw [← toNat_concat, BitVec.ofNat_toNat, BitVec.setWidth_eq]

/-- The high byte of the vector is at 0xFFFD, the low byte at 0xFFFC (R60). -/
theorem resetVector_eq_ofNat (m : Memory) :
    resetVector m = BitVec.ofNat 16 ((m.read 0xFFFD).toNat * 256 + (m.read 0xFFFC).toNat) :=
  concat_eq_ofNat _ _

/-- Settles O41, by the vector as a number. The model's own function has the name `resetCommand`. -/
theorem resetCommandState : Obligations.ResetCommand := by
  intro s _
  rw [← resetVector_eq_ofNat]
  rfl

end Sys2Proof.Machine
end
